-- ==== Sys2Proof/Word.lean ====
section
/-! DEFINITION. The data types of alphanes-core: a byte, a 16-bit processor address, and a memory as a sparse list of cells (00_scope.md R11, R7). -/

namespace Sys2Proof

/-- `Byte`: "an unsigned 8-bit value 0..255" (R11). -/
abbrev Byte := BitVec 8

/-- `Addr`: "an unsigned 16-bit value", an address of the processor's space (R11, R70). -/
abbrev Addr := BitVec 16

/-- An address of the picture generator's space, 14 bits (R71). -/
abbrev PAddr := BitVec 14

/-- A memory: the cells that differ from `Memory.fill`, by index. Its operations are in
Machine/Mem.lean; `Memory.Wf` there is the canonical form. -/
abbrev Memory := List Host.Cell

end Sys2Proof
end

