-- ==== Sys2Proof/Machine/Bits.lean ====
section
/-! DEFINITION. Bit-field, byte-order and sign helpers of 00_scope.md R11 and 20_memory.md R82. -/

namespace Sys2Proof.Machine

/-- `hi << 8 | lo`: the little-endian assembly of a 16-bit quantity (R82). -/
def word16 (lo hi : Byte) : Addr := hi ++ lo

/-- `a[7:0]`. -/
def loByte (a : Addr) : Byte := a.extractLsb' 0 8

/-- `a[15:8]`, the page number of an address. -/
def hiByte (a : Addr) : Byte := a.extractLsb' 8 8

/-- `zext_16` of a byte: an address in page 0 (R165). -/
def zeroPage (z : Byte) : Addr := z.setWidth 16

/-- `sext_8` of a byte as a 16-bit displacement (R11, R123). -/
def sext16 (b : Byte) : Addr := b.signExtend 16

/-- A one-bit value 0 or 1 at the given width. -/
def bit (w : Nat) (b : Bool) : BitVec w := if b then 1#w else 0#w

/-- `Rev8(b)`: bit `i` of the result is bit `7 - i` of `b` (R377). -/
def rev8 (b : Byte) : Byte :=
  bit 8 b[7] ||| (bit 8 b[6] <<< 1) ||| (bit 8 b[5] <<< 2) ||| (bit 8 b[4] <<< 3) |||
  (bit 8 b[3] <<< 4) ||| (bit 8 b[2] <<< 5) ||| (bit 8 b[1] <<< 6) ||| (bit 8 b[0] <<< 7)

end Sys2Proof.Machine
end

