-- ==== Sys2Proof/Machine/Flags.lean ====
section
/-! DEFINITION. The status register's fields and every flag computation the spec gives (10_state.md R24, R25; 42_arithmetic_logic.md R220; 43_shift_rotate_incdec.md). -/

namespace Sys2Proof.Machine

/-- The fields of `P` (R24). -/
inductive Flag where
  | carry
  | zero
  | intDisable
  | decimal
  | brk
  | alwaysSet
  | overflow
  | negative
  deriving DecidableEq, Repr

/-- The bit of `P` that holds a flag (R24). -/
def Flag.mask : Flag → Byte
  | .carry => 0x01
  | .zero => 0x02
  | .intDisable => 0x04
  | .decimal => 0x08
  | .brk => 0x10
  | .alwaysSet => 0x20
  | .overflow => 0x40
  | .negative => 0x80

/-- Read a flag of a status byte. -/
def getFlag (f : Flag) (p : Byte) : Bool := p &&& f.mask != 0

/-- `p` with flag `f` written. -/
def setFlag (f : Flag) (b : Bool) (p : Byte) : Byte := if b then p ||| f.mask else p &&& ~~~f.mask

/-- `SetZN(v)`: `P.Z <- (v mod 256 = 0)`; `P.N <- v[7]` (R12). -/
def setZN (v : Byte) (p : Byte) : Byte := setFlag .negative v[7] (setFlag .zero (v == 0) p)

/-- The result of the 8-bit adder `Add8` (R220). -/
structure Sum where
  result : Byte
  carryOut : Bool
  overflow : Bool
  deriving DecidableEq, Repr

/-- `Add8(a, m, c)` (R220): the 9-bit sum computed exactly, then narrowed. -/
def add8 (a m : Byte) (c : Bool) : Sum :=
  let t := a.toNat + m.toNat + c.toNat
  let r : Byte := BitVec.ofNat 8 t
  { result := r
    carryOut := decide (256 ≤ t)
    overflow := ((a ^^^ r) &&& (m ^^^ r))[7] }

/-- The status byte after ADC or SBC: C and V from the adder, Z and N from the result (R221, R222). -/
def sumFlags (r : Sum) (p : Byte) : Byte :=
  setZN r.result (setFlag .overflow r.overflow (setFlag .carry r.carryOut p))

/-- The status byte after CMP, CPX or CPY: `P.C <- (reg >= m)`; `SetZN((reg - m) mod 256)` (R227). -/
def compareFlags (reg m : Byte) (p : Byte) : Byte :=
  setZN (reg - m) (setFlag .carry (decide (m.toNat ≤ reg.toNat)) p)

/-- The status byte after BIT: Z from `A & M`, V and N from bits 6 and 7 of `M` (R226). -/
def bitFlags (a m : Byte) (p : Byte) : Byte :=
  setFlag .negative m[7] (setFlag .overflow m[6] (setFlag .zero (a &&& m == 0) p))

/-- A shift or rotate of `v` with incoming carry `c`: the result and the carry out. -/
abbrev ShiftFn := Byte → Bool → Byte × Bool

/-- ASL (R251). -/
def aslFn : ShiftFn := fun v _ => (v <<< 1, v[7])

/-- LSR (R252). -/
def lsrFn : ShiftFn := fun v _ => (v >>> 1, v[0])

/-- ROL (R253). -/
def rolFn : ShiftFn := fun v c => ((v <<< 1) ||| bit 8 c, v[7])

/-- ROR (R254). -/
def rorFn : ShiftFn := fun v c => ((v >>> 1) ||| (bit 8 c <<< 7), v[0])

/-- The status byte PLP and RTI restore: bit 4 dropped, bit 5 set (R24, R274, R303). -/
def pulledStatus (p : Byte) : Byte := (p &&& 0xCF) ||| 0x20

/-- The status byte PHP and BRK push: bits 4 and 5 set (R275, R301). -/
def pushedStatus (p : Byte) : Byte := p ||| 0x30

/-- The status byte an interrupt pushes: bit 5 set, bit 4 clear (R535). -/
def interruptStatus (p : Byte) : Byte := (p ||| 0x20) &&& 0xEF

end Sys2Proof.Machine
end

