-- ==== Sys2Proof/Machine/Mem.lean ====
section
/-! DEFINITION. Reading and writing a memory kept as a sparse, sorted list of cells. -/

namespace Sys2Proof

/-- What an index that is not listed reads as. DESIGN CHOICE (assumption 2): the spec leaves the
initial contents of every memory unspecified (10_state.md R63). -/
def Memory.fill : Byte := 0x00

/-- The byte at index `a`. -/
def Memory.read : Memory → Nat → Byte
  | [], _ => Memory.fill
  | (k, b) :: m, a => if k = a then b else Memory.read m a

/-- Put a cell for index `a` before the first cell of a higher index. -/
def Memory.insert : Memory → Nat → Byte → Memory
  | [], a, b => [(a, b)]
  | (k, c) :: m, a, b => if a < k then (a, b) :: (k, c) :: m else (k, c) :: Memory.insert m a b

/-- Drop every cell of index `a`. -/
def Memory.erase (m : Memory) (a : Nat) : Memory := m.filter (fun c => decide (c.1 ≠ a))

/-- Write byte `b` at index `a`, keeping the canonical form: writing `Memory.fill` removes the
cell. -/
def Memory.write (m : Memory) (a : Nat) (b : Byte) : Memory :=
  if b = Memory.fill then Memory.erase m a else Memory.insert (Memory.erase m a) a b

/-- The canonical form: indices strictly rising, no cell holding what an unlisted index reads as. -/
abbrev Memory.Wf (m : Memory) : Prop :=
  m.Pairwise (fun c d => c.1 < d.1) ∧ ∀ c ∈ m, c.2 ≠ Memory.fill

/-- Every listed index lies below `size`. -/
abbrev Memory.Below (m : Memory) (size : Nat) : Prop := ∀ c ∈ m, c.1 < size

end Sys2Proof
end

