-- ==== Sys2Proof/Config.lean ====
section
/-! DEFINITION. What an implementation fixes: the load-time parameters of 00_scope.md R6, the open parameters of R8, and the free values that stand for the environment's answers (R8, R86, R526). -/

namespace Sys2Proof

/-- The three Mapper variants (R3): image mapper numbers 0, 1 and 4. -/
inductive Variant where
  | fixed
  | serial
  | scanline
  deriving DecidableEq, Repr

/-- The header's mirroring mode `mirroring0` (R6). -/
inductive HeaderMirroring where
  | horizontal
  | vertical
  deriving DecidableEq, Repr

/-- The implementation parameters of R6 and the constant open parameters of R8: "each a value the
model takes as an argument; none changes after reset". The model carries them in `State.cfg`
because `step` has no other argument; no step changes them (assumption 1). -/
structure Config where
  /-- the Mapper variant (R3, R6) -/
  variant : Variant
  /-- `prg_banks16`: size of `prg` in units of 16384 bytes (R6) -/
  prgBanks16 : Nat
  /-- `chr_banks8`: size of `chr` in units of 8192 bytes, 0 meaning pattern RAM (R6) -/
  chrBanks8 : Nat
  /-- `PRG`, the program-ROM image (R6) -/
  prg : Memory
  /-- `CHR`, the pattern-ROM image (R6) -/
  chr : Memory
  /-- `mirroring0` (R6) -/
  mirroring0 : HeaderMirroring
  /-- `four_screen` (R6) -/
  fourScreen : Bool
  /-- `has_persistent_ram`: no effect on any rule (R6) -/
  hasPersistentRam : Bool
  /-- `trainer`: 512 bytes or absent, no effect on any rule (R6) -/
  trainer : Option (List Byte)
  /-- `OPEN_BUS` (R8, R78) -/
  openBus : Byte
  /-- `OAM_DMA_STALL` (R8, R180) -/
  oamDmaStall : Nat
  /-- `SERIAL_MIN_SPACING` (R8, R471) -/
  serialMinSpacing : Nat
  deriving DecidableEq, Repr

/-- The parameters `State.reset` is built from: the smallest cartridge R458 allows, with a blank
image (nothing listed, every byte reads 0x00), and the values R8 suggests for the three constant
open parameters. DESIGN CHOICE (assumptions 1 and 3): the loader supplies the image. -/
def Config.blank : Config where
  variant := .fixed
  prgBanks16 := 1
  chrBanks8 := 0
  prg := []
  chr := []
  mirroring0 := .horizontal
  fourScreen := false
  hasPersistentRam := false
  trainer := none
  openBus := 0x00
  oamDmaStall := 513
  serialMinSpacing := 2

/-- Free value: the byte the environment answers to the `n`-th read of the audio/IO range, at the
address read (R86: "a draw, under no law"). No body: nothing can be proved of it (assumption 4). -/
opaque Config.ioRead : Nat → Addr → Byte

/-- Free value: the level of the audio-frame interrupt line at the `n`-th instruction boundary
(R526: "one boolean per instruction boundary, supplied by the environment under no law"). No body
(assumption 5). -/
opaque Config.apuIrq : Nat → Bool

/-- Free value: which of several offending bank numbers a Mapper fault reports when one register
write puts more than one region out of range (R457 names "the offending bank number" only). The
list is the offending numbers; the value is an index, taken modulo its length (assumption 6). -/
opaque Config.faultRegion : List Nat → Nat

end Sys2Proof
end

