-- ==== Sys2Proof/Machine/Parts.lean ====
section
/-! DEFINITION. The components' state as plain data: Processor, Picture Generator, Mapper, environment and history (10_state.md). -/

namespace Sys2Proof.Machine

/-- The two causes of a halt (R522). -/
inductive HaltReason where
  | unrecognizedOpcode
  | mapperFault
  deriving DecidableEq, Repr

/-- `halt_info` (R29, R520): `bank` is none for an unrecognised opcode. -/
structure HaltInfo where
  reason : HaltReason
  address : Addr
  byte : Byte
  bank : Option Nat
  deriving DecidableEq, Repr

/-- The Processor's state, R20 to R30. -/
structure Cpu where
  /-- accumulator (R20) -/
  a : Byte
  /-- index X (R21) -/
  x : Byte
  /-- index Y (R22) -/
  y : Byte
  /-- stack pointer (R23) -/
  s : Byte
  /-- status register (R24): C Z I D B 1 V N are bits 0 to 7 -/
  p : Byte
  /-- program counter (R26) -/
  pc : Addr
  /-- remaining cycles of the instruction in flight (R27) -/
  cyc : Nat
  /-- page-cross flag (R28) -/
  pgx : Bool
  /-- the terminal fault state (R29) -/
  halted : Bool
  /-- what the halt reports (R29) -/
  haltInfo : Option HaltInfo
  /-- the non-maskable line at the previous boundary (R30) -/
  nmiPrev : Bool
  deriving DecidableEq, Repr

/-- One entry of the secondary object table: a copy of the four OAM bytes (R45, R46). -/
structure SpriteEntry where
  y : Byte
  tile : Byte
  attr : Byte
  x : Byte
  deriving DecidableEq, Repr

/-- One sprite output unit (R47). -/
structure SpriteUnit where
  xcnt : Byte
  attr : Byte
  lo : Byte
  hi : Byte
  deriving DecidableEq, Repr

/-- The framebuffer (R50): 240 rows; row `y` lists its pixels by column, each a 6-bit colour index
zero-extended to a byte. -/
abbrev Frame := Vector Memory 240

/-- The Picture Generator's state, R33 to R52. -/
structure Ppu where
  /-- current VRAM address (R33) -/
  v : BitVec 15
  /-- temporary address (R34) -/
  t : BitVec 15
  /-- fine-x scroll (R35) -/
  fineX : BitVec 3
  /-- write toggle (R36) -/
  w : Bool
  /-- control register (R37) -/
  ctrl : Byte
  /-- mask register (R38) -/
  mask : Byte
  /-- vertical-blank flag (R39) -/
  vblank : Bool
  /-- sprite-zero-hit flag (R39) -/
  spr0hit : Bool
  /-- sprite-overflow flag (R39) -/
  sprovf : Bool
  /-- object-table address (R40) -/
  oamAddr : Byte
  /-- data-port read buffer (R41) -/
  rdbuf : Byte
  /-- non-maskable interrupt line (R42) -/
  nmiLine : Bool
  /-- last nametable byte fetched (R43) -/
  ntByte : Byte
  /-- the two attribute bits of the last attribute fetch (R43) -/
  atBits : BitVec 2
  /-- low pattern-plane latch (R43) -/
  patLo : Byte
  /-- high pattern-plane latch (R43) -/
  patHi : Byte
  /-- pattern and attribute shift registers (R44) -/
  bgLo : BitVec 16
  bgHi : BitVec 16
  atLo : BitVec 16
  atHi : BitVec 16
  /-- object table, indices 0..255 (R45) -/
  oam : Memory
  /-- secondary object table (R46) -/
  sec : Vector SpriteEntry 8
  /-- number of valid entries of `sec` (R46) -/
  secCount : Nat
  /-- sprite-zero-candidate flag (R46) -/
  spr0cand : Bool
  /-- sprite output units (R47) -/
  su : Vector SpriteUnit 8
  /-- dot counter 0..340 (R48) -/
  dot : Nat
  /-- scanline counter -1..260 (R48) -/
  scanline : Int
  /-- frame parity (R48) -/
  odd : Bool
  /-- palette memory (R49); cells 16, 20, 24, 28 are never reached (R98) -/
  palette : Vector (BitVec 6) 32
  /-- framebuffer (R50) -/
  fb : Frame
  /-- address bit 12 of the last pattern fetch (R51) -/
  a12Prev : Bool
  deriving DecidableEq, Repr

/-- The cached mirroring mode (R53). -/
inductive Mirror where
  | horizontal
  | vertical
  | oneScreenLow
  | oneScreenHigh
  | fourScreen
  deriving DecidableEq, Repr

/-- The Serial variant's registers (R56). -/
structure SerialRegs where
  sr : BitVec 5
  srCount : Nat
  control : BitVec 5
  chrBank0 : BitVec 5
  chrBank1 : BitVec 5
  prgBank : BitVec 5
  lastWrite : Option Nat
  deriving DecidableEq, Repr

/-- The Scanline variant's registers (R57). -/
structure ScanlineRegs where
  bankSelect : Byte
  bankReg : Vector Byte 8
  ramProtect : Byte
  irqLatch : Byte
  irqCounter : Byte
  irqReload : Bool
  irqEnable : Bool
  deriving DecidableEq, Repr

/-- The Mapper's state (R53, R55 to R57). `cfg.variant` says which register set is in use; the
mapped windows of R54 are computed (Machine/Banks.lean). -/
structure Mapper where
  mirror : Mirror
  irqPending : Bool
  serial : SerialRegs
  scan : ScanlineRegs
  deriving DecidableEq, Repr

/-- What the environment sees (R77, R86, R331): the history of the run. -/
inductive Event where
  /-- a write in the audio/IO range (R73) -/
  | ioWrite (a : Addr) (d : Byte)
  /-- a read in the audio/IO range and the byte the environment answered (R86) -/
  | ioRead (a : Addr) (d : Byte)
  /-- the frame handed over at scanline 241 dot 1 (R331) -/
  | frameReady (fb : Frame)
  deriving DecidableEq, Repr

/-- The environment's inputs. MODEL'S OWN state (assumptions 4 and 5): `ioAnswers` and `apuLevels`
are the answers and line levels already settled, oldest first; past their end the free values
`Config.ioRead` and `Config.apuIrq` stand. `ioDraws` counts the reads answered, `apuDraws` the boundaries polled. -/
structure Env where
  ioAnswers : List Byte
  ioDraws : Nat
  apuLevels : List Bool
  apuDraws : Nat
  deriving DecidableEq, Repr

end Sys2Proof.Machine
end

