-- ==== Sys2Proof/Machine/Banks.lean ====
section
/-! DEFINITION. Bank-index reduction and the offset functions of the three Mapper variants (49_mapper_bus.md R451, R452, R456, R462, R475, R476, R490, R491). -/

namespace Sys2Proof.Machine

/-- The least power of two that is at least `count` (R456). -/
def leastPow2 (count : Nat) : Nat :=
  if count ≤ 1 then 1 else 2 ^ (Nat.log2 (count - 1) + 1)

/-- `i <- b & m` of R456: the bank number after masking. -/
def maskBank (b count : Nat) : Nat := b &&& (leastPow2 count - 1)

/-- `Reduce(b, count)` (R456); `none` is the violation "bank index out of bounds after masking". -/
def reduce (b count : Nat) : Option Nat :=
  if maskBank b count < count then some (maskBank b count) else none

/-- The Serial variant's program layout, `control[3:2]` (R474). -/
def SerialRegs.layout (r : SerialRegs) : Nat := (r.control.extractLsb' 2 2).toNat

/-- The Serial variant's program bank number for a half of the window, before reduction; `none`
where the half is fixed (R475). -/
def serialPrgBank (r : SerialRegs) (h : Nat) : Option Nat :=
  let p := (r.prgBank.extractLsb' 0 4).toNat
  match r.layout with
  | 2 => if h = 0 then none else some p
  | 3 => if h = 0 then some p else none
  | _ => some ((p &&& 0xE) ||| h)

/-- The fixed bank of a half in layouts 2 (the first) and 3 (the last) (R475). -/
def serialFixedBank (r : SerialRegs) (n : Nat) : Nat := if r.layout = 2 then 0 else n - 1

/-- The Serial variant's 4 KiB pattern bank number for a half, before reduction (R476). -/
def serialChrBank (r : SerialRegs) (h : Nat) : Nat :=
  if r.control[4] then (if h = 0 then r.chrBank0.toNat else r.chrBank1.toNat)
  else (r.chrBank0.toNat &&& 0x1E) ||| h

/-- The Scanline variant's 8 KiB program bank number for slot `k`, before reduction; `none` where
the slot holds one of the last two banks (R490). -/
def scanPrgBank (r : ScanlineRegs) (k : Nat) : Option Nat :=
  match k with
  | 0 => if r.bankSelect[6] then none else some r.bankReg[6].toNat
  | 1 => some r.bankReg[7].toNat
  | 2 => if r.bankSelect[6] then some r.bankReg[6].toNat else none
  | _ => none

/-- The fixed bank of a slot: the last for slot 3, the second-last otherwise (R490). -/
def scanFixedBank (k n8 : Nat) : Nat := if k = 3 then n8 - 1 else n8 - 2

/-- The slot index after the pattern layout's swap, `k'` of R491. -/
def scanChrSlot (r : ScanlineRegs) (k : Nat) : Nat := if r.bankSelect[7] then k ^^^ 4 else k

/-- The Scanline variant's 1 KiB pattern bank number of slot `k'`, before reduction (R491). -/
def scanChrBank (r : ScanlineRegs) (k : Nat) : Nat :=
  match k with
  | 0 => r.bankReg[0].toNat &&& 0xFE
  | 1 => r.bankReg[0].toNat ||| 1
  | 2 => r.bankReg[1].toNat &&& 0xFE
  | 3 => r.bankReg[1].toNat ||| 1
  | 4 => r.bankReg[2].toNat
  | 5 => r.bankReg[3].toNat
  | 6 => r.bankReg[4].toNat
  | _ => r.bankReg[5].toNat

/-- `PrgOffset(i)` for `i` in 0..32767: R462, R475, R490. Where R456's check holds, `maskBank` is
`Reduce`; a register write that would break the check is not committed (R457). -/
def prgOffset (c : Config) (m : Mapper) (i : Nat) : Nat :=
  match c.variant with
  | .fixed => if c.prgBanks16 = 1 then i % 16384 else i
  | .serial =>
    let bank := match serialPrgBank m.serial (i / 16384 % 2) with
      | some b => maskBank b c.prgBanks16
      | none => serialFixedBank m.serial c.prgBanks16
    16384 * bank + i % 16384
  | .scanline =>
    let k := i / 8192 % 4
    let bank := match scanPrgBank m.scan k with
      | some b => maskBank b (2 * c.prgBanks16)
      | none => scanFixedBank k (2 * c.prgBanks16)
    8192 * bank + i % 8192

/-- `ChrOffset(j)` for `j` in 0..8191, used when `chr_banks8` > 0: R462, R476, R491. -/
def chrOffset (c : Config) (m : Mapper) (j : Nat) : Nat :=
  match c.variant with
  | .fixed => j
  | .serial => 4096 * maskBank (serialChrBank m.serial (j / 4096 % 2)) (2 * c.chrBanks8) + j % 4096
  | .scanline =>
    1024 * maskBank (scanChrBank m.scan (scanChrSlot m.scan (j / 1024 % 8))) (8 * c.chrBanks8)
      + j % 1024

/-- The byte of the mapped program window at offset `i`: `prg_win[i]` = `PRG[PrgOffset(i)]` (R54). -/
def prgWin (c : Config) (m : Mapper) (i : Nat) : Byte := c.prg.read (prgOffset c m i)

/-- The byte of the mapped pattern window at offset `j`: `chr_win[j]` = `CHR[ChrOffset(j)]` (R54). -/
def chrWin (c : Config) (m : Mapper) (j : Nat) : Byte := c.chr.read (chrOffset c m j)

/-- Capability `mapCpuAddress` (R450, R451): an offset into the program window, or `none`, the
sentinel "not ROM/not mapped, fall through to RAM". The same for every variant. -/
def mapCpuAddress (a : Addr) : Option Nat :=
  if 0x8000 ≤ a.toNat then some (a.toNat - 0x8000) else none

/-- Capability `mapPictureAddress` (R450, R452), for `a` in 0x0000..0x1FFF. -/
def mapPictureAddress (c : Config) (a : Nat) : Option Nat := if 0 < c.chrBanks8 then some a else none

/-- Every bank number that the windows pass through `Reduce`, with the number of banks of that
size: the regions R457 checks. -/
def checkedRegions (c : Config) (m : Mapper) : List (Nat × Nat) :=
  match c.variant with
  | .fixed => []
  | .serial =>
    ((List.range 2).filterMap fun h => (serialPrgBank m.serial h).map (·, c.prgBanks16)) ++
    (if 0 < c.chrBanks8 then
      (List.range 2).map fun h => (serialChrBank m.serial h, 2 * c.chrBanks8) else [])
  | .scanline =>
    ((List.range 4).filterMap fun k => (scanPrgBank m.scan k).map (·, 2 * c.prgBanks16)) ++
    (if 0 < c.chrBanks8 then
      (List.range 8).map fun k => (scanChrBank m.scan k, 8 * c.chrBanks8) else [])

/-- The bank numbers of those regions for which `Reduce` fails (R457). -/
def failingBanks (c : Config) (m : Mapper) : List Nat :=
  (checkedRegions c m).filterMap fun r => if (reduce r.1 r.2).isSome then none else some r.1

end Sys2Proof.Machine
end

