-- ==== Sys2Proof/Machine/State.lean ====
section
/-! DEFINITION. The machine's state, the reasons a step can stop, and the reset event (10_state.md, 70_reset_and_hazards.md R560). -/

namespace Sys2Proof.Machine

/-- The whole machine: configuration, Processor, Picture Generator, Mapper, Bus memories,
environment and history. -/
structure State where
  /-- the implementation parameters, changed by no step (R6, R8; assumption 1) -/
  cfg : Config
  /-- R20 to R32 -/
  cpu : Cpu
  /-- R33 to R52 -/
  ppu : Ppu
  /-- R53 to R58 -/
  mapper : Mapper
  /-- work RAM, indices 0..2047 (R59) -/
  wram : Memory
  /-- picture-generator internal RAM, indices 0..2047 (R60) -/
  ntram : Memory
  /-- four-screen extra nametable RAM, indices 0..2047, used when `cfg.fourScreen` (R61) -/
  ntramExt : Memory
  /-- cartridge work RAM, indices 0..8191 (R61) -/
  cartRam : Memory
  /-- pattern RAM, indices 0..8191, used when `cfg.chrBanks8 = 0` (R61) -/
  patRam : Memory
  /-- number of Processor steps since reset (R62) -/
  stepCount : Nat
  /-- the environment's inputs (R8; MODEL'S OWN, assumptions 4 and 5) -/
  env : Env
  /-- the history, newest first (R77, R86, R331) -/
  events : List Event
  deriving DecidableEq, Repr

/-- Why a step stops with a fault. No constructor: the spec gives the machine no stop of its own.
Its only fault, the Processor's halt, is a state the spec describes (`cpu.halted`, `cpu.haltInfo`:
R520, U3 of 93_implementation_defined.md), and the Picture Generator steps on in it, so the model
takes it as a next state. Safe: nothing that runs is stopped. -/
inductive Fault : Type where
  deriving DecidableEq, Repr

/-- Why a step is refused. -/
inductive Refusal : Type where
  /-- raised only by an arm of `exec` whose instruction has no meaning yet; no arm raises it now.
  Safe: nothing is claimed of such an instruction. -/
  | notModelled (mnemonic : String)
  deriving DecidableEq, Repr

/-- The initial contents of the memories R63 leaves "unspecified" (a "launch parameter (an
arbitrary initial memory)") and the environment's settled inputs. -/
structure Launch where
  wram : Memory
  ntram : Memory
  ntramExt : Memory
  cartRam : Memory
  patRam : Memory
  oam : Memory
  palette : Vector (BitVec 6) 32
  fb : Frame
  env : Env
  deriving DecidableEq, Repr

/-- The Mapper's registers at reset (R53, R56, R57, R58). -/
def Mapper.reset (c : Config) : Mapper where
  mirror := if c.fourScreen then .fourScreen else
    match c.mirroring0 with
    | .horizontal => .horizontal
    | .vertical => .vertical
  irqPending := false
  serial := { sr := 0, srCount := 0, control := 0x0C, chrBank0 := 0, chrBank1 := 0, prgBank := 0,
              lastWrite := none }
  scan := { bankSelect := 0, bankReg := Vector.replicate 8 0, ramProtect := 0, irqLatch := 0,
            irqCounter := 0, irqReload := false, irqEnable := false }

/-- The Picture Generator at reset (R52); OAM, palette and framebuffer come from the launch. -/
def Ppu.reset (l : Launch) : Ppu where
  v := 0
  t := 0
  fineX := 0
  w := false
  ctrl := 0
  mask := 0
  vblank := false
  spr0hit := false
  sprovf := false
  oamAddr := 0
  rdbuf := 0
  nmiLine := false
  ntByte := 0
  atBits := 0
  patLo := 0
  patHi := 0
  bgLo := 0
  bgHi := 0
  atLo := 0
  atHi := 0
  oam := l.oam
  sec := Vector.replicate 8 ⟨0, 0, 0, 0⟩
  secCount := 0
  spr0cand := false
  su := Vector.replicate 8 ⟨0, 0, 0, 0⟩
  dot := 0
  scanline := 0
  odd := false
  palette := l.palette
  fb := l.fb
  a12Prev := false

/-- The Processor at reset (R32); `pc` is the vector the mapped window shows at 0xFFFC, 0xFFFD. -/
def Cpu.reset (c : Config) : Cpu where
  a := 0x00
  x := 0x00
  y := 0x00
  s := 0xFD
  p := 0x24
  pc := word16 (prgWin c (Mapper.reset c) 0x7FFC) (prgWin c (Mapper.reset c) 0x7FFD)
  cyc := 7
  pgx := false
  halted := false
  haltInfo := none
  nmiPrev := false

/-- The reset event (R560), for any implementation parameters and any initial memory contents. -/
def State.powerOn (c : Config) (l : Launch) : State where
  cfg := c
  cpu := Cpu.reset c
  ppu := Ppu.reset l
  mapper := Mapper.reset c
  wram := l.wram
  ntram := l.ntram
  ntramExt := l.ntramExt
  cartRam := l.cartRam
  patRam := l.patRam
  stepCount := 0
  env := l.env
  events := []

/-- The launch of `State.reset`: nothing listed in any memory, no environment input settled.
DESIGN CHOICE (assumption 2): R63 leaves the contents arbitrary. -/
def Launch.blank : Launch where
  wram := []
  ntram := []
  ntramExt := []
  cartRam := []
  patRam := []
  oam := []
  palette := Vector.replicate 32 0
  fb := Vector.replicate 240 []
  env := { ioAnswers := [], ioDraws := 0, apuLevels := [], apuDraws := 0 }

/-- The machine right after reset (R560) with the blank cartridge and launch. -/
def State.reset : State := State.powerOn Config.blank Launch.blank

end Sys2Proof.Machine
end

