-- ==== Sys2Proof/Machine/Setters.lean ====
section
/-! DEFINITION. Named updates of the state: one per register of the Processor, one per component. Their field lemmas are in Laws/State.lean. -/

namespace Sys2Proof.Machine

/-- Apply `f` to the Processor. -/
def State.mapCpu (f : Cpu → Cpu) (s : State) : State := { s with cpu := f s.cpu }

/-- Apply `f` to the Picture Generator. -/
def State.mapPpu (f : Ppu → Ppu) (s : State) : State := { s with ppu := f s.ppu }

/-- Replace the Mapper's registers. -/
def State.setMapper (m : Mapper) (s : State) : State := { s with mapper := m }

/-- `A <- v` (R20). -/
def State.setA (v : Byte) (s : State) : State := { s with cpu := { s.cpu with a := v } }

/-- `X <- v` (R21). -/
def State.setX (v : Byte) (s : State) : State := { s with cpu := { s.cpu with x := v } }

/-- `Y <- v` (R22). -/
def State.setY (v : Byte) (s : State) : State := { s with cpu := { s.cpu with y := v } }

/-- `S <- v` (R23). -/
def State.setS (v : Byte) (s : State) : State := { s with cpu := { s.cpu with s := v } }

/-- `P <- v` (R24). -/
def State.setP (v : Byte) (s : State) : State := { s with cpu := { s.cpu with p := v } }

/-- `pc <- v` (R26). -/
def State.setPc (v : Addr) (s : State) : State := { s with cpu := { s.cpu with pc := v } }

/-- `cyc <- n` (R27). -/
def State.setCyc (n : Nat) (s : State) : State := { s with cpu := { s.cpu with cyc := n } }

/-- `pgx <- b` (R28). -/
def State.setPgx (b : Bool) (s : State) : State := { s with cpu := { s.cpu with pgx := b } }

/-- `nmi_prev <- b` (R30). -/
def State.setNmiPrev (b : Bool) (s : State) : State := { s with cpu := { s.cpu with nmiPrev := b } }

/-- `SetZN(v)` on the status register (R12). -/
def State.updZN (v : Byte) (s : State) : State := s.setP (setZN v s.cpu.p)

/-- Write one flag of the status register. -/
def State.putFlag (f : Flag) (b : Bool) (s : State) : State := s.setP (setFlag f b s.cpu.p)

/-- Add an event to the history (R77, R331). -/
def State.emit (e : Event) (s : State) : State := { s with events := e :: s.events }

/-- `raise Halt(reason, address, byte, bank)` (R520): the halted state, with `cyc` left as it is. -/
def State.raiseHalt (reason : HaltReason) (address : Addr) (byte : Byte) (bank : Option Nat)
    (s : State) : State :=
  { s with cpu := { s.cpu with halted := true, haltInfo := some ⟨reason, address, byte, bank⟩ } }

end Sys2Proof.Machine
end

