-- ==== Sys2Proof/Machine/MapperOps.lean ====
section
/-! DEFINITION. The Mapper's capabilities: register writes of the three variants, the interrupt line, the scanline counter (49_mapper_bus.md). -/

namespace Sys2Proof.Machine

/-- Capability `interruptPending` (R453). -/
def interruptPending (m : Mapper) : Bool := m.irqPending

/-- Capability `clearInterrupt` (R454). -/
def clearInterrupt (m : Mapper) : Mapper := { m with irqPending := false }

/-- `advanceCounter` of the Scanline variant (R492). -/
def advanceScanCounter (m : Mapper) : Mapper :=
  let c : Byte := if m.scan.irqCounter = 0 ∨ m.scan.irqReload = true
    then m.scan.irqLatch else m.scan.irqCounter - 1
  let r : Bool := if m.scan.irqCounter = 0 ∨ m.scan.irqReload = true
    then false else m.scan.irqReload
  { m with scan := { m.scan with irqCounter := c, irqReload := r }
           irqPending := m.irqPending || (c == 0 && m.scan.irqEnable) }

/-- Capability `advanceCounter` (R450, R455). -/
def advanceCounter (c : Config) (m : Mapper) : Mapper :=
  match c.variant with
  | .fixed => m
  | .serial => m
  | .scanline => advanceScanCounter m

/-- The bank number a Mapper fault reports: the one that failed, and where several fail at once,
one of them (free value; R457, assumption 6). -/
def reportedBank (bs : List Nat) : Option Nat :=
  match bs with
  | [] => none
  | [b] => some b
  | _ => bs[Config.faultRegion bs % bs.length]?

/-- R457: commit new Mapper registers if every region of the windows passes `Reduce` under them,
else keep `m0` and halt. `m0` is the Mapper as it stands when the check fails. -/
def commitBanks (a : Addr) (d : Byte) (m0 m1 : Mapper) (s : State) : State :=
  match failingBanks s.cfg m1 with
  | [] => s.setMapper m1
  | bs => (s.setMapper m0).raiseHalt .mapperFault a d (reportedBank bs)

/-- Spacing test of the Serial variant (R471): the write is ignored. -/
def serialIgnores (c : Config) (steps : Nat) (last : Option Nat) : Bool :=
  match last with
  | none => false
  | some k => decide (steps < k + c.serialMinSpacing)

/-- The mirroring a committed `control` selects (R474): stays FourScreen under `four_screen`. -/
def serialMirror (c : Config) (val : BitVec 5) : Mirror :=
  if c.fourScreen then .fourScreen else
    match (val.extractLsb' 0 2).toNat with
    | 0 => .oneScreenLow
    | 1 => .oneScreenHigh
    | 2 => .vertical
    | _ => .horizontal

/-- Reset write of the Serial variant (R472). -/
def serialReset (a : Addr) (d : Byte) (s : State) : State :=
  let r := s.mapper.serial
  commitBanks a d s.mapper
    { s.mapper with serial := { r with sr := 0, srCount := 0, control := r.control ||| 0x0C } } s

/-- The Mapper with the Serial register chosen by `a[14:13]` holding `val` (R473). -/
def serialCommitted (c : Config) (a : Addr) (val : BitVec 5) (m : Mapper) : Mapper :=
  match (a.extractLsb' 13 2).toNat with
  | 0 => { m with serial := { m.serial with control := val }, mirror := serialMirror c val }
  | 1 => { m with serial := { m.serial with chrBank0 := val } }
  | 2 => { m with serial := { m.serial with chrBank1 := val } }
  | _ => { m with serial := { m.serial with prgBank := val } }

/-- Shift write of the Serial variant (R473). -/
def serialShift (a : Addr) (d : Byte) (s : State) : State :=
  let r := s.mapper.serial
  let sr := (r.sr >>> 1) ||| (bit 5 d[0] <<< 4)
  if r.srCount + 1 = 5 then
    let m0 : Mapper := { s.mapper with serial := { r with sr := 0, srCount := 0 } }
    commitBanks a d m0 (serialCommitted s.cfg a sr m0) s
  else
    s.setMapper { s.mapper with serial := { r with sr := sr, srCount := r.srCount + 1 } }

/-- `writeRegister` of the Serial variant (R470). -/
def serialWrite (a : Addr) (d : Byte) (s : State) : State :=
  let r := s.mapper.serial
  let s1 := s.setMapper { s.mapper with serial := { r with lastWrite := some s.stepCount } }
  if serialIgnores s.cfg s.stepCount r.lastWrite then s1
  else if d[7] then serialReset a d s1
  else serialShift a d s1

/-- The Mapper after a mirroring write of the Scanline variant (R484). -/
def scanMirrorWrite (c : Config) (d : Byte) (m : Mapper) : Mapper :=
  if c.fourScreen then m else { m with mirror := if d[0] then .horizontal else .vertical }

/-- `writeRegister` of the Scanline variant (R480 to R486). -/
def scanWrite (a : Addr) (d : Byte) (s : State) : State :=
  let m := s.mapper
  match (a.extractLsb' 13 2).toNat, a[0] with
  | 0, false => commitBanks a d m { m with scan := { m.scan with bankSelect := d } } s
  | 0, true =>
    commitBanks a d m
      { m with scan := { m.scan with
        bankReg := m.scan.bankReg.set (m.scan.bankSelect.extractLsb' 0 3).toNat d
          (m.scan.bankSelect.extractLsb' 0 3).isLt } } s
  | 1, false => s.setMapper (scanMirrorWrite s.cfg d m)
  | 1, true => s.setMapper { m with scan := { m.scan with ramProtect := d } }
  | 2, false => s.setMapper { m with scan := { m.scan with irqLatch := d } }
  | 2, true => s.setMapper { m with scan := { m.scan with irqReload := true } }
  | _, false => s.setMapper (clearInterrupt { m with scan := { m.scan with irqEnable := false } })
  | _, true => s.setMapper { m with scan := { m.scan with irqEnable := true } }

/-- Capability `writeRegister` (R450), for `a` in 0x8000..0xFFFF: R461, R470, R481. -/
def writeRegister (a : Addr) (d : Byte) (s : State) : State :=
  match s.cfg.variant with
  | .fixed => s
  | .serial => serialWrite a d s
  | .scanline => scanWrite a d s

end Sys2Proof.Machine
end

