-- ==== Sys2Proof/Machine/Ports.lean ====
section
/-! DEFINITION. The picture-generator address space and the eight register ports (20_memory.md R95 to R98, 48_ppu_registers.md). -/

namespace Sys2Proof.Machine

/-- The physical nametable of logical nametable `q` under a mirroring mode (R97). -/
def physicalNametable (mir : Mirror) (q : Nat) : Nat :=
  match mir with
  | .horizontal => q / 2
  | .vertical => q % 2
  | .oneScreenLow => 0
  | .oneScreenHigh => 1
  | .fourScreen => q

/-- `NtCell(a)` (R97): whether the cell lies in the four-screen RAM, and its index there. -/
def ntCell (mir : Mirror) (a : PAddr) : Bool × Nat :=
  let o := a.toNat % 4096
  let n := physicalNametable mir (o / 1024)
  if n < 2 then (false, 1024 * n + o % 1024) else (true, 1024 * (n - 2) + o % 1024)

/-- `PalIndex(a)` (R98). -/
def palIndex (a : PAddr) : BitVec 5 :=
  let i := a.extractLsb' 0 5
  if i = 16 ∨ i = 20 ∨ i = 24 ∨ i = 28 then i - 16 else i

/-- One cell of palette memory (R49). -/
def Ppu.paletteAt (p : Ppu) (i : BitVec 5) : BitVec 6 := p.palette[i.toNat]'i.isLt

/-- `PpuRead(a)` (R95): no side effect. -/
def ppuRead (s : State) (a : PAddr) : Byte :=
  if a.toNat < 0x2000 then
    match mapPictureAddress s.cfg a.toNat with
    | some j => chrWin s.cfg s.mapper j
    | none => s.patRam.read a.toNat
  else if a.toNat < 0x3F00 then
    match ntCell s.mapper.mirror a with
    | (false, i) => s.ntram.read i
    | (true, i) => s.ntramExt.read i
  else (s.ppu.paletteAt (palIndex a)).setWidth 8

/-- `PpuWrite(a, d)` (R96). -/
def ppuWrite (a : PAddr) (d : Byte) (s : State) : State :=
  if a.toNat < 0x2000 then
    if s.cfg.chrBanks8 = 0 then { s with patRam := s.patRam.write a.toNat d } else s
  else if a.toNat < 0x3F00 then
    match ntCell s.mapper.mirror a with
    | (false, i) => { s with ntram := s.ntram.write i d }
    | (true, i) => { s with ntramExt := s.ntramExt.write i d }
  else s.mapPpu fun p =>
    { p with palette := p.palette.set (palIndex a).toNat (d.extractLsb' 0 6) (palIndex a).isLt }

/-- The status byte (R416): bits 4 to 0 are 0. -/
def Ppu.statusByte (p : Ppu) : Byte :=
  (bit 8 p.vblank <<< 7) ||| (bit 8 p.spr0hit <<< 6) ||| (bit 8 p.sprovf <<< 5)

/-- Status read (R416): `vblank <- 0`; `w <- 0`. -/
def Ppu.afterStatusRead (p : Ppu) : Ppu := { p with vblank := false, w := false }

/-- Data-port increment (R426). -/
def Ppu.incV (p : Ppu) : Ppu := { p with v := p.v + (if p.ctrl[2] then 32 else 1) }

/-- Data read (R424): the byte returned and the state after it. -/
def dataRead (s : State) : Byte × State :=
  let a : PAddr := s.ppu.v.setWidth 14
  if a.toNat < 0x3F00 then
    (s.ppu.rdbuf, s.mapPpu fun p => { p with rdbuf := ppuRead s a }.incV)
  else
    (ppuRead s a, s.mapPpu fun p => { p with rdbuf := ppuRead s (a - 0x1000) }.incV)

/-- Data write (R425). -/
def dataWrite (d : Byte) (s : State) : State :=
  (ppuWrite (s.ppu.v.setWidth 14) d s).mapPpu Ppu.incV

/-- Control write (R412). -/
def Ppu.writeCtrl (d : Byte) (p : Ppu) : Ppu :=
  { p with ctrl := d, t := (p.t &&& 0x73FF#15) ||| ((d.extractLsb' 0 2).setWidth 15 <<< 10) }

/-- Mask write (R413). -/
def Ppu.writeMask (d : Byte) (p : Ppu) : Ppu := { p with mask := d }

/-- Object-table address write (R417). -/
def Ppu.writeOamAddr (d : Byte) (p : Ppu) : Ppu := { p with oamAddr := d }

/-- Object-table data read (R420). -/
def Ppu.readOamData (p : Ppu) : Byte := p.oam.read p.oamAddr.toNat

/-- Object-table data write (R421). -/
def Ppu.writeOamData (d : Byte) (p : Ppu) : Ppu :=
  { p with oam := p.oam.write p.oamAddr.toNat d, oamAddr := p.oamAddr + 1 }

/-- Scroll write (R422). -/
def Ppu.writeScroll (d : Byte) (p : Ppu) : Ppu :=
  if p.w then
    { p with t := (p.t &&& 0x0C1F#15) ||| ((d.extractLsb' 0 3).setWidth 15 <<< 12) |||
                  ((d.extractLsb' 3 5).setWidth 15 <<< 5)
             w := false }
  else
    { p with t := (p.t &&& 0x7FE0#15) ||| (d.extractLsb' 3 5).setWidth 15
             fineX := d.extractLsb' 0 3
             w := true }

/-- Address write (R423). -/
def Ppu.writeAddress (d : Byte) (p : Ppu) : Ppu :=
  if p.w then
    let t := (p.t &&& 0x7F00#15) ||| d.setWidth 15
    { p with t := t, v := t, w := false }
  else
    { p with t := (p.t &&& 0x00FF#15) ||| ((d.extractLsb' 0 6).setWidth 15 <<< 8), w := true }

/-- `PpuRegRead(p)` (R410): write-only ports return `OPEN_BUS` and change nothing. -/
def ppuRegRead (port : Nat) (s : State) : Byte × State :=
  match port with
  | 2 => (s.ppu.statusByte, s.mapPpu Ppu.afterStatusRead)
  | 4 => (s.ppu.readOamData, s)
  | 7 => dataRead s
  | _ => (s.cfg.openBus, s)

/-- `PpuRegWrite(p, d)` (R411). -/
def ppuRegWrite (port : Nat) (d : Byte) (s : State) : State :=
  match port with
  | 0 => s.mapPpu (Ppu.writeCtrl d)
  | 1 => s.mapPpu (Ppu.writeMask d)
  | 3 => s.mapPpu (Ppu.writeOamAddr d)
  | 4 => s.mapPpu (Ppu.writeOamData d)
  | 5 => s.mapPpu (Ppu.writeScroll d)
  | 6 => s.mapPpu (Ppu.writeAddress d)
  | 7 => dataWrite d s
  | _ => s

end Sys2Proof.Machine
end

