-- ==== Sys2Proof/Machine/Ops.lean ====
section
/-! DEFINITION. The router, object DMA, the stack, taking an interrupt and returning from one (20_memory.md R72 to R81, 40_processor_step.md R175, R176, 44_control_flow.md R274, 48_ppu_registers.md R430, 60_exceptions.md R530, R535). -/

namespace Sys2Proof.Machine

/-- `IoRead(a)` (R86): the environment's answer, recorded in the history. A settled answer is
used first; past the settled ones the byte is the free value `Config.ioRead` (assumption 4). -/
def ioRead (a : Addr) (s : State) : Byte × State :=
  let b := match s.env.ioAnswers with
    | b :: _ => b
    | [] => Config.ioRead s.env.ioDraws a
  (b, { s with env := { s.env with ioAnswers := s.env.ioAnswers.tail
                                   ioDraws := s.env.ioDraws + 1 }
               events := .ioRead a b :: s.events })

/-- `CartRead(a)`, `a` in 0x4020..0xFFFF (R80). -/
def cartRead (s : State) (a : Addr) : Byte :=
  match mapCpuAddress a with
  | some i => prgWin s.cfg s.mapper i
  | none => if 0x6000 ≤ a.toNat then s.cartRam.read (a.toNat - 0x6000) else s.cfg.openBus

/-- `CartWrite(a, d)`, `a` in 0x4020..0xFFFF (R81). -/
def cartWrite (a : Addr) (d : Byte) (s : State) : State :=
  if 0x8000 ≤ a.toNat then writeRegister a d s
  else if 0x6000 ≤ a.toNat then { s with cartRam := s.cartRam.write (a.toNat - 0x6000) d }
  else s

/-- `BusRead(a)` (R72): the byte, and the state after the read's side effects. -/
def busRead (a : Addr) (s : State) : Byte × State :=
  if a.toNat < 0x2000 then (s.wram.read (a.toNat % 2048), s)
  else if a.toNat < 0x4000 then ppuRegRead (a.toNat % 8) s
  else if a.toNat = 0x4014 then (s.cfg.openBus, s)
  else if a.toNat < 0x4018 then ioRead a s
  else if a.toNat < 0x4020 then (s.cfg.openBus, s)
  else (cartRead s a, s)

/-- One byte of object DMA: `OAM[(oam_addr + i) mod 256] <- BusRead((page << 8) | i)` (R430). -/
def dmaByte (page : Byte) (s : State) (i : Nat) : State :=
  let r := busRead (word16 (BitVec.ofNat 8 i) page) s
  r.2.mapPpu fun p => { p with oam := p.oam.write ((p.oamAddr.toNat + i) % 256) r.1 }

/-- Object DMA (R430): 256 bytes in order; `oam_addr` ends where it began. -/
def objectDma (page : Byte) (s : State) : State := (List.range 256).foldl (dmaByte page) s

/-- `BusWrite(a, d)` (R73). -/
def busWrite (a : Addr) (d : Byte) (s : State) : State :=
  if a.toNat < 0x2000 then { s with wram := s.wram.write (a.toNat % 2048) d }
  else if a.toNat < 0x4000 then ppuRegWrite (a.toNat % 8) d s
  else if a.toNat = 0x4014 then objectDma d s
  else if a.toNat < 0x4018 then s.emit (.ioWrite a d)
  else if a.toNat < 0x4020 then s
  else cartWrite a d s

/-- The countdown an instruction's write adds: `OAM_DMA_STALL` for the object-DMA address (R180). -/
def dmaExtra (c : Config) (a : Addr) : Nat := if a.toNat = 0x4014 then c.oamDmaStall else 0

/-- The stack address `0x0100 | S` (R23). -/
def stackAddr (sp : Byte) : Addr := word16 sp 0x01

/-- `Push(d)` (R175). -/
def push (d : Byte) (s : State) : State := (busWrite (stackAddr s.cpu.s) d s).setS (s.cpu.s - 1)

/-- `Pull()` (R176). -/
def pull (s : State) : Byte × State := busRead (stackAddr (s.cpu.s + 1)) (s.setS (s.cpu.s + 1))

/-- A 16-bit pointer read as two bytes, low then high (R79, R82). -/
def readPointer (lo hi : Addr) (s : State) : Addr × State :=
  let l := busRead lo s
  let h := busRead hi l.2
  (word16 l.1 h.1, h.2)

/-- TAKING AN INTERRUPT, shared by the two hardware interrupts and BRK (R275, R535): push the
return address high byte first, push the status byte, set `I`, load `pc` from the vector. -/
def enterInterrupt (ret : Addr) (status : Byte) (vec : Addr) (s : State) : State :=
  let s1 := push status (push (loByte ret) (push (hiByte ret) s))
  let r := readPointer vec (vec + 1) (s1.putFlag .intDisable true)
  r.2.setPc r.1

/-- RETURN FROM INTERRUPT (R274): pull the status byte, then `pc`, low byte first. -/
def returnFromInterrupt (s : State) : State :=
  let p := pull s
  let lo := pull (p.2.setP (pulledStatus p.1))
  let hi := pull lo.2
  hi.2.setPc (word16 lo.1 hi.1)

/-- The non-maskable vector (R79). -/
def nmiVector : Addr := 0xFFFA

/-- The vector of the maskable request and of BRK (R79). -/
def irqVector : Addr := 0xFFFE

/-- `Service(vec)` (R535). -/
def service (vec : Addr) (s : State) : State :=
  enterInterrupt s.cpu.pc (interruptStatus s.cpu.p) vec s

/-- The audio-frame line at this boundary (R526): the settled level, else the free value. -/
def apuLevel (s : State) : Bool :=
  match s.env.apuLevels with
  | l :: _ => l
  | [] => Config.apuIrq s.env.apuDraws

/-- What a boundary's poll found (R530). -/
inductive Polled where
  | nmi
  | irq
  | nothing
  deriving DecidableEq, Repr

/-- Which request the poll services (R530, R533). `P.I` is tested first, so that a masked request
is not looked at. -/
def pollResult (s : State) : Polled :=
  if s.ppu.nmiLine && !s.cpu.nmiPrev then .nmi
  else if !getFlag .intDisable s.cpu.p && (interruptPending s.mapper || apuLevel s) then .irq
  else .nothing

/-- The poll's own update: `nmi_prev <- nmi_line` (R530), and the audio-frame level of this boundary
is used up (assumption 5). -/
def afterPoll (s : State) : State :=
  { s.setNmiPrev s.ppu.nmiLine with env := { s.env with apuLevels := s.env.apuLevels.tail
                                                        apuDraws := s.env.apuDraws + 1 } }

end Sys2Proof.Machine
end

