-- ==== Sys2Proof/Syntax.lean ====
section
/-! DEFINITION. The instructions: one constructor per row of spec/opcode_table.json, 151 rows (30_encoding.md R130), and the operand forms of the modes that name a byte of memory (R124). -/

namespace Sys2Proof

/-- The operand forms that give an instruction a data byte: the addressing modes of R124 other than
implied, accumulator, relative and indirect. -/
inductive Operand where
  /-- immediate (R164) -/
  | imm (m : Byte)
  /-- zero page (R165) -/
  | zp (z : Byte)
  /-- zero page,X (R166) -/
  | zpx (z : Byte)
  /-- zero page,Y (R167) -/
  | zpy (z : Byte)
  /-- absolute (R169) -/
  | abs (w : Addr)
  /-- absolute,X (R170) -/
  | abx (w : Addr)
  /-- absolute,Y (R171) -/
  | aby (w : Addr)
  /-- (zero page,X) (R173) -/
  | izx (z : Byte)
  /-- (zero page),Y (R174) -/
  | izy (z : Byte)
  deriving DecidableEq, Repr

/-- The data byte of the immediate form. -/
def Operand.immediate? : Operand → Option Byte
  | .imm m => some m
  | .zp _ => none
  | .zpx _ => none
  | .zpy _ => none
  | .abs _ => none
  | .abx _ => none
  | .aby _ => none
  | .izx _ => none
  | .izy _ => none

/-- The instruction set. `imm` is an immediate byte, `z` a zero-page address or pointer address,
`w` a 16-bit address or pointer address, `off` a signed displacement (R121, R123). -/
inductive Instr where
  -- LDA: 41_load_store_transfer.md R191
  | ldaImm (imm : Byte)
  | ldaZp (z : Byte)
  | ldaZpx (z : Byte)
  | ldaAbs (w : Addr)
  | ldaAbx (w : Addr)
  | ldaAby (w : Addr)
  | ldaIzx (z : Byte)
  | ldaIzy (z : Byte)
  -- LDX: 41_load_store_transfer.md R192
  | ldxImm (imm : Byte)
  | ldxZp (z : Byte)
  | ldxZpy (z : Byte)
  | ldxAbs (w : Addr)
  | ldxAby (w : Addr)
  -- LDY: 41_load_store_transfer.md R193
  | ldyImm (imm : Byte)
  | ldyZp (z : Byte)
  | ldyZpx (z : Byte)
  | ldyAbs (w : Addr)
  | ldyAbx (w : Addr)
  -- STA: 41_load_store_transfer.md R194
  | staZp (z : Byte)
  | staZpx (z : Byte)
  | staAbs (w : Addr)
  | staAbx (w : Addr)
  | staAby (w : Addr)
  | staIzx (z : Byte)
  | staIzy (z : Byte)
  -- STX: 41_load_store_transfer.md R195
  | stxZp (z : Byte)
  | stxZpy (z : Byte)
  | stxAbs (w : Addr)
  -- STY: 41_load_store_transfer.md R196
  | styZp (z : Byte)
  | styZpx (z : Byte)
  | styAbs (w : Addr)
  -- TAX: 41_load_store_transfer.md R197
  | tax
  -- TAY: 41_load_store_transfer.md R198
  | tay
  -- TXA: 41_load_store_transfer.md R199
  | txa
  -- TYA: 41_load_store_transfer.md R200
  | tya
  -- TSX: 41_load_store_transfer.md R201
  | tsx
  -- TXS: 41_load_store_transfer.md R202
  | txs
  -- ADC: 42_arithmetic_logic.md R221
  | adcImm (imm : Byte)
  | adcZp (z : Byte)
  | adcZpx (z : Byte)
  | adcAbs (w : Addr)
  | adcAbx (w : Addr)
  | adcAby (w : Addr)
  | adcIzx (z : Byte)
  | adcIzy (z : Byte)
  -- SBC: 42_arithmetic_logic.md R222
  | sbcImm (imm : Byte)
  | sbcZp (z : Byte)
  | sbcZpx (z : Byte)
  | sbcAbs (w : Addr)
  | sbcAbx (w : Addr)
  | sbcAby (w : Addr)
  | sbcIzx (z : Byte)
  | sbcIzy (z : Byte)
  -- AND: 42_arithmetic_logic.md R223
  | andImm (imm : Byte)
  | andZp (z : Byte)
  | andZpx (z : Byte)
  | andAbs (w : Addr)
  | andAbx (w : Addr)
  | andAby (w : Addr)
  | andIzx (z : Byte)
  | andIzy (z : Byte)
  -- ORA: 42_arithmetic_logic.md R224
  | oraImm (imm : Byte)
  | oraZp (z : Byte)
  | oraZpx (z : Byte)
  | oraAbs (w : Addr)
  | oraAbx (w : Addr)
  | oraAby (w : Addr)
  | oraIzx (z : Byte)
  | oraIzy (z : Byte)
  -- EOR: 42_arithmetic_logic.md R225
  | eorImm (imm : Byte)
  | eorZp (z : Byte)
  | eorZpx (z : Byte)
  | eorAbs (w : Addr)
  | eorAbx (w : Addr)
  | eorAby (w : Addr)
  | eorIzx (z : Byte)
  | eorIzy (z : Byte)
  -- BIT: 42_arithmetic_logic.md R226
  | bitZp (z : Byte)
  | bitAbs (w : Addr)
  -- CMP: 42_arithmetic_logic.md R227
  | cmpImm (imm : Byte)
  | cmpZp (z : Byte)
  | cmpZpx (z : Byte)
  | cmpAbs (w : Addr)
  | cmpAbx (w : Addr)
  | cmpAby (w : Addr)
  | cmpIzx (z : Byte)
  | cmpIzy (z : Byte)
  -- CPX: 42_arithmetic_logic.md R228
  | cpxImm (imm : Byte)
  | cpxZp (z : Byte)
  | cpxAbs (w : Addr)
  -- CPY: 42_arithmetic_logic.md R229
  | cpyImm (imm : Byte)
  | cpyZp (z : Byte)
  | cpyAbs (w : Addr)
  -- ASL: 43_shift_rotate_incdec.md R251
  | aslAcc
  | aslZp (z : Byte)
  | aslZpx (z : Byte)
  | aslAbs (w : Addr)
  | aslAbx (w : Addr)
  -- LSR: 43_shift_rotate_incdec.md R252
  | lsrAcc
  | lsrZp (z : Byte)
  | lsrZpx (z : Byte)
  | lsrAbs (w : Addr)
  | lsrAbx (w : Addr)
  -- ROL: 43_shift_rotate_incdec.md R253
  | rolAcc
  | rolZp (z : Byte)
  | rolZpx (z : Byte)
  | rolAbs (w : Addr)
  | rolAbx (w : Addr)
  -- ROR: 43_shift_rotate_incdec.md R254
  | rorAcc
  | rorZp (z : Byte)
  | rorZpx (z : Byte)
  | rorAbs (w : Addr)
  | rorAbx (w : Addr)
  -- INC: 43_shift_rotate_incdec.md R255
  | incZp (z : Byte)
  | incZpx (z : Byte)
  | incAbs (w : Addr)
  | incAbx (w : Addr)
  -- DEC: 43_shift_rotate_incdec.md R256
  | decZp (z : Byte)
  | decZpx (z : Byte)
  | decAbs (w : Addr)
  | decAbx (w : Addr)
  -- INX: 43_shift_rotate_incdec.md R257
  | inx
  -- INY: 43_shift_rotate_incdec.md R258
  | iny
  -- DEX: 43_shift_rotate_incdec.md R259
  | dex
  -- DEY: 43_shift_rotate_incdec.md R260
  | dey
  -- JMP: 44_control_flow.md R271
  | jmpAbs (w : Addr)
  | jmpInd (w : Addr)
  -- JSR: 44_control_flow.md R272
  | jsr (w : Addr)
  -- RTS: 44_control_flow.md R273
  | rts
  -- RTI: 44_control_flow.md R274
  | rti
  -- BRK: 44_control_flow.md R275
  | brk
  -- BCC: 44_control_flow.md R277
  | bcc (off : Byte)
  -- BCS: 44_control_flow.md R278
  | bcs (off : Byte)
  -- BEQ: 44_control_flow.md R279
  | beq (off : Byte)
  -- BNE: 44_control_flow.md R280
  | bne (off : Byte)
  -- BMI: 44_control_flow.md R281
  | bmi (off : Byte)
  -- BPL: 44_control_flow.md R282
  | bpl (off : Byte)
  -- BVC: 44_control_flow.md R283
  | bvc (off : Byte)
  -- BVS: 44_control_flow.md R284
  | bvs (off : Byte)
  -- PHA: 45_stack_flag_nop.md R300
  | pha
  -- PHP: 45_stack_flag_nop.md R301
  | php
  -- PLA: 45_stack_flag_nop.md R302
  | pla
  -- PLP: 45_stack_flag_nop.md R303
  | plp
  -- CLC: 45_stack_flag_nop.md R304
  | clc
  -- SEC: 45_stack_flag_nop.md R305
  | sec
  -- CLI: 45_stack_flag_nop.md R306
  | cli
  -- SEI: 45_stack_flag_nop.md R307
  | sei
  -- CLD: 45_stack_flag_nop.md R308
  | cld
  -- SED: 45_stack_flag_nop.md R309
  | sed
  -- CLV: 45_stack_flag_nop.md R310
  | clv
  -- NOP: 45_stack_flag_nop.md R311
  | nop
  deriving DecidableEq, Repr

end Sys2Proof
end

