-- ==== Sys2Proof/Machine/Operands.lean ====
section
/-! DEFINITION. Operand resolution of the 13 addressing modes and the shared instruction shapes (40_processor_step.md R162 to R174, R178; 41_load_store_transfer.md R190; 43_shift_rotate_incdec.md R250). -/

namespace Sys2Proof.Machine

/-- What a meaning answers. -/
abbrev Out := Host.Outcome State Fault Refusal

/-- The start of every operand resolution: `pgx <- 0` and `pc` past the instruction's `len` bytes
(R161 d, R162 to R174). The operand bytes themselves are in the instruction. -/
def advance (len : Nat) (s : State) : State :=
  (s.setPgx false).setPc (s.cpu.pc + BitVec.ofNat 16 len)

/-- `pgx` after indexing: the effective address has another high byte than the base (R170). -/
def pageCross (base ea : Addr) : Bool := hiByte ea != hiByte base

/-- A pointer in page 0, its second byte wrapping within the page (R173, R174). -/
def zeroPagePointer (z : Byte) (s : State) : Addr × State :=
  readPointer (zeroPage z) (zeroPage (z + 1)) s

/-- Operand resolution: the effective address, and the state after it (R164 to R174). For the
immediate form the address is that of the operand byte. -/
def resolve (o : Operand) (s : State) : Addr × State :=
  match o with
  | .imm _ => (s.cpu.pc + 1, advance 2 s)
  | .zp z => (zeroPage z, advance 2 s)
  | .zpx z => (zeroPage (z + s.cpu.x), advance 2 s)
  | .zpy z => (zeroPage (z + s.cpu.y), advance 2 s)
  | .abs w => (w, advance 3 s)
  | .abx w =>
    let ea := w + s.cpu.x.setWidth 16
    (ea, (advance 3 s).setPgx (pageCross w ea))
  | .aby w =>
    let ea := w + s.cpu.y.setWidth 16
    (ea, (advance 3 s).setPgx (pageCross w ea))
  | .izx z => zeroPagePointer (z + s.cpu.x) (advance 2 s)
  | .izy z =>
    let base := zeroPagePointer z (advance 2 s)
    let ea := base.1 + s.cpu.y.setWidth 16
    (ea, base.2.setPgx (pageCross base.1 ea))

/-- The operand byte `M` and the state after reading it (R190): the immediate byte was read when
the instruction was fetched; otherwise `BusRead(ea)`, once. -/
def readOperand (o : Operand) (s : State) : Byte × State :=
  let r := resolve o s
  match o.immediate? with
  | some m => (m, r.2)
  | none => busRead r.1 r.2

/-- The page-cross cycle of a read instruction (R178). -/
def readPenalty (s : State) : Nat := if s.cpu.pgx then 1 else 0

/-- End an instruction: load `cyc` with its cost, unless its write halted the Processor (R161 f,
R520). -/
def finish (cost : Nat) (s : State) : State := if s.cpu.halted then s else s.setCyc cost

/-- An instruction that reads its operand and changes registers only: cost `base`, one more if a
page was crossed (R178). -/
def readInstr (base : Nat) (o : Operand) (effect : Byte → State → State) (s : State) : Out :=
  let r := readOperand o s
  .next ((effect r.1 r.2).setCyc (base + readPenalty r.2))

/-- A store of `value`: `BusWrite(ea, value)` once, fixed cost (R190, R178, R180). -/
def storeInstr (base : Nat) (o : Operand) (value : Byte) (s : State) : Out :=
  let r := resolve o s
  .next (finish (base + dmaExtra s.cfg r.1) (busWrite r.1 value r.2))

/-- The tail of a read-modify-write on memory: write the result once, then `SetZN` unless the
write halted the Processor (R250, R520). -/
def writeBack (cost : Nat) (ea : Addr) (r : Byte) (s : State) : State :=
  let s1 := busWrite ea r s
  if s1.cpu.halted then s1 else (s1.updZN r).setCyc cost

/-- A shift or rotate of memory: the carry is written before the result goes back (R250 to R254). -/
def shiftMem (base : Nat) (o : Operand) (f : ShiftFn) (s : State) : Out :=
  let ea := resolve o s
  let v := busRead ea.1 ea.2
  let r := f v.1 (getFlag .carry v.2.cpu.p)
  .next (writeBack (base + dmaExtra s.cfg ea.1) ea.1 r.1 (v.2.putFlag .carry r.2))

/-- A shift or rotate of the accumulator (R163, R250 to R254). -/
def shiftAcc (f : ShiftFn) (s : State) : Out :=
  let s1 := advance 1 s
  let r := f s1.cpu.a (getFlag .carry s1.cpu.p)
  .next ((((s1.putFlag .carry r.2).setA r.1).updZN r.1).setCyc 2)

/-- INC and DEC: `f` is the new value of the byte (R255, R256). -/
def stepMem (base : Nat) (o : Operand) (f : Byte → Byte) (s : State) : Out :=
  let ea := resolve o s
  let v := busRead ea.1 ea.2
  .next (writeBack (base + dmaExtra s.cfg ea.1) ea.1 (f v.1) v.2)

/-- An implied-mode instruction: `pc` advances by 1, the effect, then the fixed cost (R162). -/
def impliedInstr (base : Nat) (effect : State → State) (s : State) : Out :=
  .next ((effect (advance 1 s)).setCyc base)

/-- `r <- v` with `SetZN(v)`, for a register named by its setter. -/
def loadReg (set : Byte → State → State) (v : Byte) (s : State) : State := (set v s).updZN v

/-- The branch rule R276, after the resolution of R168. -/
def branchInstr (taken : Bool) (off : Byte) (s : State) : Out :=
  let s1 := advance 2 s
  let target := s1.cpu.pc + sext16 off
  if taken then
    .next ((s1.setPc target).setCyc (2 + 1 + (if pageCross s1.cpu.pc target then 1 else 0)))
  else .next (s1.setCyc 2)

end Sys2Proof.Machine
end

