-- ==== Sys2Proof/Machine/Arith.lean ====
section
/-! DEFINITION. Arithmetic, logic, BIT and compare (42_arithmetic_logic.md). -/

namespace Sys2Proof.Machine

/-- The effect of ADC on the registers (R221). -/
def adcEffect (m : Byte) (s : State) : State :=
  let r := add8 s.cpu.a m (getFlag .carry s.cpu.p)
  (s.setP (sumFlags r s.cpu.p)).setA r.result

/-- The effect of SBC: ADC with the operand complemented (R222). -/
def sbcEffect (m : Byte) (s : State) : State := adcEffect (m ^^^ 0xFF) s

/-- The effect of AND (R223). -/
def andEffect (m : Byte) (s : State) : State := loadReg State.setA (s.cpu.a &&& m) s

/-- The effect of ORA (R224). -/
def oraEffect (m : Byte) (s : State) : State := loadReg State.setA (s.cpu.a ||| m) s

/-- The effect of EOR (R225). -/
def eorEffect (m : Byte) (s : State) : State := loadReg State.setA (s.cpu.a ^^^ m) s

/-- The effect of BIT (R226). -/
def bitEffect (m : Byte) (s : State) : State := s.setP (bitFlags s.cpu.a m s.cpu.p)

/-- The effect of CMP (R227). -/
def cmpEffect (m : Byte) (s : State) : State := s.setP (compareFlags s.cpu.a m s.cpu.p)

/-- The effect of CPX (R228). -/
def cpxEffect (m : Byte) (s : State) : State := s.setP (compareFlags s.cpu.x m s.cpu.p)

/-- The effect of CPY (R229). -/
def cpyEffect (m : Byte) (s : State) : State := s.setP (compareFlags s.cpu.y m s.cpu.p)

/-- ADC #$nn, opcode 0x69, 2 bytes (R221, R164). -/
def execAdcImm (imm : Byte) (s : State) : Out :=
  readInstr 2 (.imm imm) adcEffect s

/-- ADC $nn, opcode 0x65, 2 bytes (R221, R165). -/
def execAdcZp (z : Byte) (s : State) : Out :=
  readInstr 3 (.zp z) adcEffect s

/-- ADC $nn,X, opcode 0x75, 2 bytes (R221, R166). -/
def execAdcZpx (z : Byte) (s : State) : Out :=
  readInstr 4 (.zpx z) adcEffect s

/-- ADC $nnnn, opcode 0x6D, 3 bytes (R221, R169). -/
def execAdcAbs (w : Addr) (s : State) : Out :=
  readInstr 4 (.abs w) adcEffect s

/-- ADC $nnnn,X, opcode 0x7D, 3 bytes (R221, R170). -/
def execAdcAbx (w : Addr) (s : State) : Out :=
  readInstr 4 (.abx w) adcEffect s

/-- ADC $nnnn,Y, opcode 0x79, 3 bytes (R221, R171). -/
def execAdcAby (w : Addr) (s : State) : Out :=
  readInstr 4 (.aby w) adcEffect s

/-- ADC ($nn,X), opcode 0x61, 2 bytes (R221, R173). -/
def execAdcIzx (z : Byte) (s : State) : Out :=
  readInstr 6 (.izx z) adcEffect s

/-- ADC ($nn),Y, opcode 0x71, 2 bytes (R221, R174). -/
def execAdcIzy (z : Byte) (s : State) : Out :=
  readInstr 5 (.izy z) adcEffect s

/-- SBC #$nn, opcode 0xE9, 2 bytes (R222, R164). -/
def execSbcImm (imm : Byte) (s : State) : Out :=
  readInstr 2 (.imm imm) sbcEffect s

/-- SBC $nn, opcode 0xE5, 2 bytes (R222, R165). -/
def execSbcZp (z : Byte) (s : State) : Out :=
  readInstr 3 (.zp z) sbcEffect s

/-- SBC $nn,X, opcode 0xF5, 2 bytes (R222, R166). -/
def execSbcZpx (z : Byte) (s : State) : Out :=
  readInstr 4 (.zpx z) sbcEffect s

/-- SBC $nnnn, opcode 0xED, 3 bytes (R222, R169). -/
def execSbcAbs (w : Addr) (s : State) : Out :=
  readInstr 4 (.abs w) sbcEffect s

/-- SBC $nnnn,X, opcode 0xFD, 3 bytes (R222, R170). -/
def execSbcAbx (w : Addr) (s : State) : Out :=
  readInstr 4 (.abx w) sbcEffect s

/-- SBC $nnnn,Y, opcode 0xF9, 3 bytes (R222, R171). -/
def execSbcAby (w : Addr) (s : State) : Out :=
  readInstr 4 (.aby w) sbcEffect s

/-- SBC ($nn,X), opcode 0xE1, 2 bytes (R222, R173). -/
def execSbcIzx (z : Byte) (s : State) : Out :=
  readInstr 6 (.izx z) sbcEffect s

/-- SBC ($nn),Y, opcode 0xF1, 2 bytes (R222, R174). -/
def execSbcIzy (z : Byte) (s : State) : Out :=
  readInstr 5 (.izy z) sbcEffect s

/-- AND #$nn, opcode 0x29, 2 bytes (R223, R164). -/
def execAndImm (imm : Byte) (s : State) : Out :=
  readInstr 2 (.imm imm) andEffect s

/-- AND $nn, opcode 0x25, 2 bytes (R223, R165). -/
def execAndZp (z : Byte) (s : State) : Out :=
  readInstr 3 (.zp z) andEffect s

/-- AND $nn,X, opcode 0x35, 2 bytes (R223, R166). -/
def execAndZpx (z : Byte) (s : State) : Out :=
  readInstr 4 (.zpx z) andEffect s

/-- AND $nnnn, opcode 0x2D, 3 bytes (R223, R169). -/
def execAndAbs (w : Addr) (s : State) : Out :=
  readInstr 4 (.abs w) andEffect s

/-- AND $nnnn,X, opcode 0x3D, 3 bytes (R223, R170). -/
def execAndAbx (w : Addr) (s : State) : Out :=
  readInstr 4 (.abx w) andEffect s

/-- AND $nnnn,Y, opcode 0x39, 3 bytes (R223, R171). -/
def execAndAby (w : Addr) (s : State) : Out :=
  readInstr 4 (.aby w) andEffect s

/-- AND ($nn,X), opcode 0x21, 2 bytes (R223, R173). -/
def execAndIzx (z : Byte) (s : State) : Out :=
  readInstr 6 (.izx z) andEffect s

/-- AND ($nn),Y, opcode 0x31, 2 bytes (R223, R174). -/
def execAndIzy (z : Byte) (s : State) : Out :=
  readInstr 5 (.izy z) andEffect s

/-- ORA #$nn, opcode 0x09, 2 bytes (R224, R164). -/
def execOraImm (imm : Byte) (s : State) : Out :=
  readInstr 2 (.imm imm) oraEffect s

/-- ORA $nn, opcode 0x05, 2 bytes (R224, R165). -/
def execOraZp (z : Byte) (s : State) : Out :=
  readInstr 3 (.zp z) oraEffect s

/-- ORA $nn,X, opcode 0x15, 2 bytes (R224, R166). -/
def execOraZpx (z : Byte) (s : State) : Out :=
  readInstr 4 (.zpx z) oraEffect s

/-- ORA $nnnn, opcode 0x0D, 3 bytes (R224, R169). -/
def execOraAbs (w : Addr) (s : State) : Out :=
  readInstr 4 (.abs w) oraEffect s

/-- ORA $nnnn,X, opcode 0x1D, 3 bytes (R224, R170). -/
def execOraAbx (w : Addr) (s : State) : Out :=
  readInstr 4 (.abx w) oraEffect s

/-- ORA $nnnn,Y, opcode 0x19, 3 bytes (R224, R171). -/
def execOraAby (w : Addr) (s : State) : Out :=
  readInstr 4 (.aby w) oraEffect s

/-- ORA ($nn,X), opcode 0x01, 2 bytes (R224, R173). -/
def execOraIzx (z : Byte) (s : State) : Out :=
  readInstr 6 (.izx z) oraEffect s

/-- ORA ($nn),Y, opcode 0x11, 2 bytes (R224, R174). -/
def execOraIzy (z : Byte) (s : State) : Out :=
  readInstr 5 (.izy z) oraEffect s

/-- EOR #$nn, opcode 0x49, 2 bytes (R225, R164). -/
def execEorImm (imm : Byte) (s : State) : Out :=
  readInstr 2 (.imm imm) eorEffect s

/-- EOR $nn, opcode 0x45, 2 bytes (R225, R165). -/
def execEorZp (z : Byte) (s : State) : Out :=
  readInstr 3 (.zp z) eorEffect s

/-- EOR $nn,X, opcode 0x55, 2 bytes (R225, R166). -/
def execEorZpx (z : Byte) (s : State) : Out :=
  readInstr 4 (.zpx z) eorEffect s

/-- EOR $nnnn, opcode 0x4D, 3 bytes (R225, R169). -/
def execEorAbs (w : Addr) (s : State) : Out :=
  readInstr 4 (.abs w) eorEffect s

/-- EOR $nnnn,X, opcode 0x5D, 3 bytes (R225, R170). -/
def execEorAbx (w : Addr) (s : State) : Out :=
  readInstr 4 (.abx w) eorEffect s

/-- EOR $nnnn,Y, opcode 0x59, 3 bytes (R225, R171). -/
def execEorAby (w : Addr) (s : State) : Out :=
  readInstr 4 (.aby w) eorEffect s

/-- EOR ($nn,X), opcode 0x41, 2 bytes (R225, R173). -/
def execEorIzx (z : Byte) (s : State) : Out :=
  readInstr 6 (.izx z) eorEffect s

/-- EOR ($nn),Y, opcode 0x51, 2 bytes (R225, R174). -/
def execEorIzy (z : Byte) (s : State) : Out :=
  readInstr 5 (.izy z) eorEffect s

/-- BIT $nn, opcode 0x24, 2 bytes (R226, R165). -/
def execBitZp (z : Byte) (s : State) : Out :=
  readInstr 3 (.zp z) bitEffect s

/-- BIT $nnnn, opcode 0x2C, 3 bytes (R226, R169). -/
def execBitAbs (w : Addr) (s : State) : Out :=
  readInstr 4 (.abs w) bitEffect s

/-- CMP #$nn, opcode 0xC9, 2 bytes (R227, R164). -/
def execCmpImm (imm : Byte) (s : State) : Out :=
  readInstr 2 (.imm imm) cmpEffect s

/-- CMP $nn, opcode 0xC5, 2 bytes (R227, R165). -/
def execCmpZp (z : Byte) (s : State) : Out :=
  readInstr 3 (.zp z) cmpEffect s

/-- CMP $nn,X, opcode 0xD5, 2 bytes (R227, R166). -/
def execCmpZpx (z : Byte) (s : State) : Out :=
  readInstr 4 (.zpx z) cmpEffect s

/-- CMP $nnnn, opcode 0xCD, 3 bytes (R227, R169). -/
def execCmpAbs (w : Addr) (s : State) : Out :=
  readInstr 4 (.abs w) cmpEffect s

/-- CMP $nnnn,X, opcode 0xDD, 3 bytes (R227, R170). -/
def execCmpAbx (w : Addr) (s : State) : Out :=
  readInstr 4 (.abx w) cmpEffect s

/-- CMP $nnnn,Y, opcode 0xD9, 3 bytes (R227, R171). -/
def execCmpAby (w : Addr) (s : State) : Out :=
  readInstr 4 (.aby w) cmpEffect s

/-- CMP ($nn,X), opcode 0xC1, 2 bytes (R227, R173). -/
def execCmpIzx (z : Byte) (s : State) : Out :=
  readInstr 6 (.izx z) cmpEffect s

/-- CMP ($nn),Y, opcode 0xD1, 2 bytes (R227, R174). -/
def execCmpIzy (z : Byte) (s : State) : Out :=
  readInstr 5 (.izy z) cmpEffect s

/-- CPX #$nn, opcode 0xE0, 2 bytes (R228, R164). -/
def execCpxImm (imm : Byte) (s : State) : Out :=
  readInstr 2 (.imm imm) cpxEffect s

/-- CPX $nn, opcode 0xE4, 2 bytes (R228, R165). -/
def execCpxZp (z : Byte) (s : State) : Out :=
  readInstr 3 (.zp z) cpxEffect s

/-- CPX $nnnn, opcode 0xEC, 3 bytes (R228, R169). -/
def execCpxAbs (w : Addr) (s : State) : Out :=
  readInstr 4 (.abs w) cpxEffect s

/-- CPY #$nn, opcode 0xC0, 2 bytes (R229, R164). -/
def execCpyImm (imm : Byte) (s : State) : Out :=
  readInstr 2 (.imm imm) cpyEffect s

/-- CPY $nn, opcode 0xC4, 2 bytes (R229, R165). -/
def execCpyZp (z : Byte) (s : State) : Out :=
  readInstr 3 (.zp z) cpyEffect s

/-- CPY $nnnn, opcode 0xCC, 3 bytes (R229, R169). -/
def execCpyAbs (w : Addr) (s : State) : Out :=
  readInstr 4 (.abs w) cpyEffect s

end Sys2Proof.Machine
end

