-- ==== Sys2Proof/Machine/Control.lean ====
section
/-! DEFINITION. Jumps, subroutines, BRK, RTI and branches (44_control_flow.md). -/

namespace Sys2Proof.Machine

/-- Push a 16-bit address, high byte first (R272, R535). -/
def pushAddr (v : Addr) (s : State) : State := push (loByte v) (push (hiByte v) s)

/-- Pull a 16-bit address, low byte first (R273). -/
def pullAddr (s : State) : Addr × State :=
  let lo := pull s
  let hi := pull lo.2
  (word16 lo.1 hi.1, hi.2)

/-- The second byte of JMP's pointer: the same page as the first (R172). -/
def pointerHigh (ptr : Addr) : Addr := word16 (loByte ptr + 1) (hiByte ptr)

/-- JMP $nnnn, opcode 0x4C, 3 bytes (R271, R169). -/
def execJmpAbs (w : Addr) (s : State) : Out :=
  let r := resolve (.abs w) s
  .next ((r.2.setPc r.1).setCyc 3)

/-- JMP ($nnnn), opcode 0x6C, 3 bytes (R271, R172). -/
def execJmpInd (w : Addr) (s : State) : Out :=
  let r := readPointer w (pointerHigh w) (advance 3 s)
  .next ((r.2.setPc r.1).setCyc 5)

/-- JSR $nnnn, opcode 0x20, 3 bytes (R272, R169). -/
def execJsr (w : Addr) (s : State) : Out :=
  let r := resolve (.abs w) s
  .next (((pushAddr (r.2.cpu.pc - 1) r.2).setPc r.1).setCyc 6)

/-- RTS, opcode 0x60, 1 byte (R273, R162). -/
def execRts (s : State) : Out :=
  impliedInstr 6 (fun s => let r := pullAddr s; r.2.setPc (r.1 + 1)) s

/-- RTI, opcode 0x40, 1 byte (R274, R162). -/
def execRti (s : State) : Out :=
  impliedInstr 6 returnFromInterrupt s

/-- BRK, opcode 0x00, 1 byte (R275, R162). -/
def execBrk (s : State) : Out :=
  impliedInstr 7
    (enterInterrupt (s.cpu.pc + 2) (pushedStatus s.cpu.p) irqVector) s

/-- BCC label, opcode 0x90, 2 bytes (R277, R168). -/
def execBcc (off : Byte) (s : State) : Out :=
  branchInstr (!getFlag .carry s.cpu.p) off s

/-- BCS label, opcode 0xB0, 2 bytes (R278, R168). -/
def execBcs (off : Byte) (s : State) : Out :=
  branchInstr (getFlag .carry s.cpu.p) off s

/-- BEQ label, opcode 0xF0, 2 bytes (R279, R168). -/
def execBeq (off : Byte) (s : State) : Out :=
  branchInstr (getFlag .zero s.cpu.p) off s

/-- BNE label, opcode 0xD0, 2 bytes (R280, R168). -/
def execBne (off : Byte) (s : State) : Out :=
  branchInstr (!getFlag .zero s.cpu.p) off s

/-- BMI label, opcode 0x30, 2 bytes (R281, R168). -/
def execBmi (off : Byte) (s : State) : Out :=
  branchInstr (getFlag .negative s.cpu.p) off s

/-- BPL label, opcode 0x10, 2 bytes (R282, R168). -/
def execBpl (off : Byte) (s : State) : Out :=
  branchInstr (!getFlag .negative s.cpu.p) off s

/-- BVC label, opcode 0x50, 2 bytes (R283, R168). -/
def execBvc (off : Byte) (s : State) : Out :=
  branchInstr (!getFlag .overflow s.cpu.p) off s

/-- BVS label, opcode 0x70, 2 bytes (R284, R168). -/
def execBvs (off : Byte) (s : State) : Out :=
  branchInstr (getFlag .overflow s.cpu.p) off s

end Sys2Proof.Machine
end

