-- ==== Sys2Proof/Machine/LoadStore.lean ====
section
/-! DEFINITION. Loads, stores and register transfers (41_load_store_transfer.md). -/

namespace Sys2Proof.Machine

/-- LDA #$nn, opcode 0xA9, 2 bytes (R191, R164). -/
def execLdaImm (imm : Byte) (s : State) : Out :=
  readInstr 2 (.imm imm) (loadReg State.setA) s

/-- LDA $nn, opcode 0xA5, 2 bytes (R191, R165). -/
def execLdaZp (z : Byte) (s : State) : Out :=
  readInstr 3 (.zp z) (loadReg State.setA) s

/-- LDA $nn,X, opcode 0xB5, 2 bytes (R191, R166). -/
def execLdaZpx (z : Byte) (s : State) : Out :=
  readInstr 4 (.zpx z) (loadReg State.setA) s

/-- LDA $nnnn, opcode 0xAD, 3 bytes (R191, R169). -/
def execLdaAbs (w : Addr) (s : State) : Out :=
  readInstr 4 (.abs w) (loadReg State.setA) s

/-- LDA $nnnn,X, opcode 0xBD, 3 bytes (R191, R170). -/
def execLdaAbx (w : Addr) (s : State) : Out :=
  readInstr 4 (.abx w) (loadReg State.setA) s

/-- LDA $nnnn,Y, opcode 0xB9, 3 bytes (R191, R171). -/
def execLdaAby (w : Addr) (s : State) : Out :=
  readInstr 4 (.aby w) (loadReg State.setA) s

/-- LDA ($nn,X), opcode 0xA1, 2 bytes (R191, R173). -/
def execLdaIzx (z : Byte) (s : State) : Out :=
  readInstr 6 (.izx z) (loadReg State.setA) s

/-- LDA ($nn),Y, opcode 0xB1, 2 bytes (R191, R174). -/
def execLdaIzy (z : Byte) (s : State) : Out :=
  readInstr 5 (.izy z) (loadReg State.setA) s

/-- LDX #$nn, opcode 0xA2, 2 bytes (R192, R164). -/
def execLdxImm (imm : Byte) (s : State) : Out :=
  readInstr 2 (.imm imm) (loadReg State.setX) s

/-- LDX $nn, opcode 0xA6, 2 bytes (R192, R165). -/
def execLdxZp (z : Byte) (s : State) : Out :=
  readInstr 3 (.zp z) (loadReg State.setX) s

/-- LDX $nn,Y, opcode 0xB6, 2 bytes (R192, R167). -/
def execLdxZpy (z : Byte) (s : State) : Out :=
  readInstr 4 (.zpy z) (loadReg State.setX) s

/-- LDX $nnnn, opcode 0xAE, 3 bytes (R192, R169). -/
def execLdxAbs (w : Addr) (s : State) : Out :=
  readInstr 4 (.abs w) (loadReg State.setX) s

/-- LDX $nnnn,Y, opcode 0xBE, 3 bytes (R192, R171). -/
def execLdxAby (w : Addr) (s : State) : Out :=
  readInstr 4 (.aby w) (loadReg State.setX) s

/-- LDY #$nn, opcode 0xA0, 2 bytes (R193, R164). -/
def execLdyImm (imm : Byte) (s : State) : Out :=
  readInstr 2 (.imm imm) (loadReg State.setY) s

/-- LDY $nn, opcode 0xA4, 2 bytes (R193, R165). -/
def execLdyZp (z : Byte) (s : State) : Out :=
  readInstr 3 (.zp z) (loadReg State.setY) s

/-- LDY $nn,X, opcode 0xB4, 2 bytes (R193, R166). -/
def execLdyZpx (z : Byte) (s : State) : Out :=
  readInstr 4 (.zpx z) (loadReg State.setY) s

/-- LDY $nnnn, opcode 0xAC, 3 bytes (R193, R169). -/
def execLdyAbs (w : Addr) (s : State) : Out :=
  readInstr 4 (.abs w) (loadReg State.setY) s

/-- LDY $nnnn,X, opcode 0xBC, 3 bytes (R193, R170). -/
def execLdyAbx (w : Addr) (s : State) : Out :=
  readInstr 4 (.abx w) (loadReg State.setY) s

/-- STA $nn, opcode 0x85, 2 bytes (R194, R165). -/
def execStaZp (z : Byte) (s : State) : Out :=
  storeInstr 3 (.zp z) s.cpu.a s

/-- STA $nn,X, opcode 0x95, 2 bytes (R194, R166). -/
def execStaZpx (z : Byte) (s : State) : Out :=
  storeInstr 4 (.zpx z) s.cpu.a s

/-- STA $nnnn, opcode 0x8D, 3 bytes (R194, R169). -/
def execStaAbs (w : Addr) (s : State) : Out :=
  storeInstr 4 (.abs w) s.cpu.a s

/-- STA $nnnn,X, opcode 0x9D, 3 bytes (R194, R170). -/
def execStaAbx (w : Addr) (s : State) : Out :=
  storeInstr 5 (.abx w) s.cpu.a s

/-- STA $nnnn,Y, opcode 0x99, 3 bytes (R194, R171). -/
def execStaAby (w : Addr) (s : State) : Out :=
  storeInstr 5 (.aby w) s.cpu.a s

/-- STA ($nn,X), opcode 0x81, 2 bytes (R194, R173). -/
def execStaIzx (z : Byte) (s : State) : Out :=
  storeInstr 6 (.izx z) s.cpu.a s

/-- STA ($nn),Y, opcode 0x91, 2 bytes (R194, R174). -/
def execStaIzy (z : Byte) (s : State) : Out :=
  storeInstr 6 (.izy z) s.cpu.a s

/-- STX $nn, opcode 0x86, 2 bytes (R195, R165). -/
def execStxZp (z : Byte) (s : State) : Out :=
  storeInstr 3 (.zp z) s.cpu.x s

/-- STX $nn,Y, opcode 0x96, 2 bytes (R195, R167). -/
def execStxZpy (z : Byte) (s : State) : Out :=
  storeInstr 4 (.zpy z) s.cpu.x s

/-- STX $nnnn, opcode 0x8E, 3 bytes (R195, R169). -/
def execStxAbs (w : Addr) (s : State) : Out :=
  storeInstr 4 (.abs w) s.cpu.x s

/-- STY $nn, opcode 0x84, 2 bytes (R196, R165). -/
def execStyZp (z : Byte) (s : State) : Out :=
  storeInstr 3 (.zp z) s.cpu.y s

/-- STY $nn,X, opcode 0x94, 2 bytes (R196, R166). -/
def execStyZpx (z : Byte) (s : State) : Out :=
  storeInstr 4 (.zpx z) s.cpu.y s

/-- STY $nnnn, opcode 0x8C, 3 bytes (R196, R169). -/
def execStyAbs (w : Addr) (s : State) : Out :=
  storeInstr 4 (.abs w) s.cpu.y s

/-- TAX, opcode 0xAA, 1 byte (R197, R162). -/
def execTax (s : State) : Out :=
  impliedInstr 2 (fun s => loadReg State.setX s.cpu.a s) s

/-- TAY, opcode 0xA8, 1 byte (R198, R162). -/
def execTay (s : State) : Out :=
  impliedInstr 2 (fun s => loadReg State.setY s.cpu.a s) s

/-- TXA, opcode 0x8A, 1 byte (R199, R162). -/
def execTxa (s : State) : Out :=
  impliedInstr 2 (fun s => loadReg State.setA s.cpu.x s) s

/-- TYA, opcode 0x98, 1 byte (R200, R162). -/
def execTya (s : State) : Out :=
  impliedInstr 2 (fun s => loadReg State.setA s.cpu.y s) s

/-- TSX, opcode 0xBA, 1 byte (R201, R162). -/
def execTsx (s : State) : Out :=
  impliedInstr 2 (fun s => loadReg State.setX s.cpu.s s) s

/-- TXS, opcode 0x9A, 1 byte (R202, R162). -/
def execTxs (s : State) : Out :=
  impliedInstr 2 (fun s => s.setS s.cpu.x) s

end Sys2Proof.Machine
end

