-- ==== Sys2Proof/Machine/Shift.lean ====
section
/-! DEFINITION. Shifts, rotates, increments and decrements (43_shift_rotate_incdec.md). -/

namespace Sys2Proof.Machine

/-- ASL A, opcode 0x0A, 1 byte (R251, R163). -/
def execAslAcc (s : State) : Out :=
  shiftAcc aslFn s

/-- ASL $nn, opcode 0x06, 2 bytes (R251, R165). -/
def execAslZp (z : Byte) (s : State) : Out :=
  shiftMem 5 (.zp z) aslFn s

/-- ASL $nn,X, opcode 0x16, 2 bytes (R251, R166). -/
def execAslZpx (z : Byte) (s : State) : Out :=
  shiftMem 6 (.zpx z) aslFn s

/-- ASL $nnnn, opcode 0x0E, 3 bytes (R251, R169). -/
def execAslAbs (w : Addr) (s : State) : Out :=
  shiftMem 6 (.abs w) aslFn s

/-- ASL $nnnn,X, opcode 0x1E, 3 bytes (R251, R170). -/
def execAslAbx (w : Addr) (s : State) : Out :=
  shiftMem 7 (.abx w) aslFn s

/-- LSR A, opcode 0x4A, 1 byte (R252, R163). -/
def execLsrAcc (s : State) : Out :=
  shiftAcc lsrFn s

/-- LSR $nn, opcode 0x46, 2 bytes (R252, R165). -/
def execLsrZp (z : Byte) (s : State) : Out :=
  shiftMem 5 (.zp z) lsrFn s

/-- LSR $nn,X, opcode 0x56, 2 bytes (R252, R166). -/
def execLsrZpx (z : Byte) (s : State) : Out :=
  shiftMem 6 (.zpx z) lsrFn s

/-- LSR $nnnn, opcode 0x4E, 3 bytes (R252, R169). -/
def execLsrAbs (w : Addr) (s : State) : Out :=
  shiftMem 6 (.abs w) lsrFn s

/-- LSR $nnnn,X, opcode 0x5E, 3 bytes (R252, R170). -/
def execLsrAbx (w : Addr) (s : State) : Out :=
  shiftMem 7 (.abx w) lsrFn s

/-- ROL A, opcode 0x2A, 1 byte (R253, R163). -/
def execRolAcc (s : State) : Out :=
  shiftAcc rolFn s

/-- ROL $nn, opcode 0x26, 2 bytes (R253, R165). -/
def execRolZp (z : Byte) (s : State) : Out :=
  shiftMem 5 (.zp z) rolFn s

/-- ROL $nn,X, opcode 0x36, 2 bytes (R253, R166). -/
def execRolZpx (z : Byte) (s : State) : Out :=
  shiftMem 6 (.zpx z) rolFn s

/-- ROL $nnnn, opcode 0x2E, 3 bytes (R253, R169). -/
def execRolAbs (w : Addr) (s : State) : Out :=
  shiftMem 6 (.abs w) rolFn s

/-- ROL $nnnn,X, opcode 0x3E, 3 bytes (R253, R170). -/
def execRolAbx (w : Addr) (s : State) : Out :=
  shiftMem 7 (.abx w) rolFn s

/-- ROR A, opcode 0x6A, 1 byte (R254, R163). -/
def execRorAcc (s : State) : Out :=
  shiftAcc rorFn s

/-- ROR $nn, opcode 0x66, 2 bytes (R254, R165). -/
def execRorZp (z : Byte) (s : State) : Out :=
  shiftMem 5 (.zp z) rorFn s

/-- ROR $nn,X, opcode 0x76, 2 bytes (R254, R166). -/
def execRorZpx (z : Byte) (s : State) : Out :=
  shiftMem 6 (.zpx z) rorFn s

/-- ROR $nnnn, opcode 0x6E, 3 bytes (R254, R169). -/
def execRorAbs (w : Addr) (s : State) : Out :=
  shiftMem 6 (.abs w) rorFn s

/-- ROR $nnnn,X, opcode 0x7E, 3 bytes (R254, R170). -/
def execRorAbx (w : Addr) (s : State) : Out :=
  shiftMem 7 (.abx w) rorFn s

/-- INC $nn, opcode 0xE6, 2 bytes (R255, R165). -/
def execIncZp (z : Byte) (s : State) : Out :=
  stepMem 5 (.zp z) (fun v => v + 1) s

/-- INC $nn,X, opcode 0xF6, 2 bytes (R255, R166). -/
def execIncZpx (z : Byte) (s : State) : Out :=
  stepMem 6 (.zpx z) (fun v => v + 1) s

/-- INC $nnnn, opcode 0xEE, 3 bytes (R255, R169). -/
def execIncAbs (w : Addr) (s : State) : Out :=
  stepMem 6 (.abs w) (fun v => v + 1) s

/-- INC $nnnn,X, opcode 0xFE, 3 bytes (R255, R170). -/
def execIncAbx (w : Addr) (s : State) : Out :=
  stepMem 7 (.abx w) (fun v => v + 1) s

/-- DEC $nn, opcode 0xC6, 2 bytes (R256, R165). -/
def execDecZp (z : Byte) (s : State) : Out :=
  stepMem 5 (.zp z) (fun v => v - 1) s

/-- DEC $nn,X, opcode 0xD6, 2 bytes (R256, R166). -/
def execDecZpx (z : Byte) (s : State) : Out :=
  stepMem 6 (.zpx z) (fun v => v - 1) s

/-- DEC $nnnn, opcode 0xCE, 3 bytes (R256, R169). -/
def execDecAbs (w : Addr) (s : State) : Out :=
  stepMem 6 (.abs w) (fun v => v - 1) s

/-- DEC $nnnn,X, opcode 0xDE, 3 bytes (R256, R170). -/
def execDecAbx (w : Addr) (s : State) : Out :=
  stepMem 7 (.abx w) (fun v => v - 1) s

/-- INX, opcode 0xE8, 1 byte (R257, R162). -/
def execInx (s : State) : Out :=
  impliedInstr 2 (fun s => loadReg State.setX (s.cpu.x + 1) s) s

/-- INY, opcode 0xC8, 1 byte (R258, R162). -/
def execIny (s : State) : Out :=
  impliedInstr 2 (fun s => loadReg State.setY (s.cpu.y + 1) s) s

/-- DEX, opcode 0xCA, 1 byte (R259, R162). -/
def execDex (s : State) : Out :=
  impliedInstr 2 (fun s => loadReg State.setX (s.cpu.x - 1) s) s

/-- DEY, opcode 0x88, 1 byte (R260, R162). -/
def execDey (s : State) : Out :=
  impliedInstr 2 (fun s => loadReg State.setY (s.cpu.y - 1) s) s

end Sys2Proof.Machine
end

