-- ==== Sys2Proof/Machine/Stack.lean ====
section
/-! DEFINITION. Stack, flag and no-operation instructions (45_stack_flag_nop.md). -/

namespace Sys2Proof.Machine

/-- The effect of PLA (R302). -/
def plaEffect (s : State) : State :=
  let r := pull s
  loadReg State.setA r.1 r.2

/-- The effect of PLP (R303). -/
def plpEffect (s : State) : State :=
  let r := pull s
  r.2.setP (pulledStatus r.1)

/-- PHA, opcode 0x48, 1 byte (R300, R162). -/
def execPha (s : State) : Out :=
  impliedInstr 3 (fun s => push s.cpu.a s) s

/-- PHP, opcode 0x08, 1 byte (R301, R162). -/
def execPhp (s : State) : Out :=
  impliedInstr 3 (fun s => push (pushedStatus s.cpu.p) s) s

/-- PLA, opcode 0x68, 1 byte (R302, R162). -/
def execPla (s : State) : Out :=
  impliedInstr 4 plaEffect s

/-- PLP, opcode 0x28, 1 byte (R303, R162). -/
def execPlp (s : State) : Out :=
  impliedInstr 4 plpEffect s

/-- CLC, opcode 0x18, 1 byte (R304, R162). -/
def execClc (s : State) : Out :=
  impliedInstr 2 (State.putFlag .carry false) s

/-- SEC, opcode 0x38, 1 byte (R305, R162). -/
def execSec (s : State) : Out :=
  impliedInstr 2 (State.putFlag .carry true) s

/-- CLI, opcode 0x58, 1 byte (R306, R162). -/
def execCli (s : State) : Out :=
  impliedInstr 2 (State.putFlag .intDisable false) s

/-- SEI, opcode 0x78, 1 byte (R307, R162). -/
def execSei (s : State) : Out :=
  impliedInstr 2 (State.putFlag .intDisable true) s

/-- CLD, opcode 0xD8, 1 byte (R308, R162). -/
def execCld (s : State) : Out :=
  impliedInstr 2 (State.putFlag .decimal false) s

/-- SED, opcode 0xF8, 1 byte (R309, R162). -/
def execSed (s : State) : Out :=
  impliedInstr 2 (State.putFlag .decimal true) s

/-- CLV, opcode 0xB8, 1 byte (R310, R162). -/
def execClv (s : State) : Out :=
  impliedInstr 2 (State.putFlag .overflow false) s

/-- NOP, opcode 0xEA, 1 byte (R311, R162). -/
def execNop (s : State) : Out :=
  impliedInstr 2 id s

end Sys2Proof.Machine
end

