-- ==== Sys2Proof/WellFormed.lean ====
section
/-! DEFINITION. What a well-formed instruction and a well-formed set of implementation parameters are (30_encoding.md R134, 49_mapper_bus.md R458). -/

namespace Sys2Proof

/-- Every operand value of every instruction is legal: "Operand-field values are never reserved:
every value 0..255 of an operand byte is legal in every format" (R134). -/
def Instr.wellFormed (_ : Instr) : Bool := true

/-- An image has exactly the declared size: every listed byte lies inside it (R458). -/
def imageFits (m : Memory) (size : Nat) : Bool := m.all fun c => decide (c.1 < size)

/-- The size limits of each variant (R458). -/
def variantSizes (c : Config) : Bool :=
  match c.variant with
  | .fixed => decide (c.prgBanks16 ≤ 2) && decide (c.chrBanks8 ≤ 1)
  | .serial => decide (c.prgBanks16 ≤ 16) && decide (c.chrBanks8 ≤ 16)
  | .scanline => decide (c.prgBanks16 ≤ 128) && decide (c.chrBanks8 ≤ 32)

/-- The trainer is "512 bytes or absent" (R6). -/
def trainerFits (c : Config) : Bool :=
  match c.trainer with
  | none => true
  | some t => t.length == 512

/-- The load-time constraints the loader guarantees (R458): at least one program bank, images of
the declared sizes, the variant's size limits. -/
def Config.wellFormed (c : Config) : Bool :=
  decide (1 ≤ c.prgBanks16) && imageFits c.prg (16384 * c.prgBanks16) &&
  imageFits c.chr (8192 * c.chrBanks8) && variantSizes c && trainerFits c

end Sys2Proof
end

