-- ==== Sys2Proof/Decode.lean ====
section
/-! DEFINITION. The decoder and the encoder (30_encoding.md R120 to R123, R130, R132). -/

namespace Sys2Proof

open Sys2Proof.Machine

/-- A row of the opcode table: what the operand bytes after the opcode make of it. -/
inductive Row where
  /-- format 1: no operand byte (R121) -/
  | one (i : Instr)
  /-- format 2: one operand byte (R121) -/
  | two (f : Byte → Instr)
  /-- format 3: two operand bytes, low then high (R121, R123) -/
  | three (f : Addr → Instr)

/-- The length of an instruction of the row, in bytes (R121). -/
def Row.length : Row → Nat
  | .one _ => 1
  | .two _ => 2
  | .three _ => 3

/-- Opcodes 0x00 to 0x1F (R130). -/
def rows01 : List (Nat × Row) := [
  (0x00, .one .brk),
  (0x01, .two .oraIzx),
  (0x05, .two .oraZp),
  (0x06, .two .aslZp),
  (0x08, .one .php),
  (0x09, .two .oraImm),
  (0x0A, .one .aslAcc),
  (0x0D, .three .oraAbs),
  (0x0E, .three .aslAbs),
  (0x10, .two .bpl),
  (0x11, .two .oraIzy),
  (0x15, .two .oraZpx),
  (0x16, .two .aslZpx),
  (0x18, .one .clc),
  (0x19, .three .oraAby),
  (0x1D, .three .oraAbx),
  (0x1E, .three .aslAbx)]

/-- Opcodes 0x20 to 0x3F (R130). -/
def rows23 : List (Nat × Row) := [
  (0x20, .three .jsr),
  (0x21, .two .andIzx),
  (0x24, .two .bitZp),
  (0x25, .two .andZp),
  (0x26, .two .rolZp),
  (0x28, .one .plp),
  (0x29, .two .andImm),
  (0x2A, .one .rolAcc),
  (0x2C, .three .bitAbs),
  (0x2D, .three .andAbs),
  (0x2E, .three .rolAbs),
  (0x30, .two .bmi),
  (0x31, .two .andIzy),
  (0x35, .two .andZpx),
  (0x36, .two .rolZpx),
  (0x38, .one .sec),
  (0x39, .three .andAby),
  (0x3D, .three .andAbx),
  (0x3E, .three .rolAbx)]

/-- Opcodes 0x40 to 0x5F (R130). -/
def rows45 : List (Nat × Row) := [
  (0x40, .one .rti),
  (0x41, .two .eorIzx),
  (0x45, .two .eorZp),
  (0x46, .two .lsrZp),
  (0x48, .one .pha),
  (0x49, .two .eorImm),
  (0x4A, .one .lsrAcc),
  (0x4C, .three .jmpAbs),
  (0x4D, .three .eorAbs),
  (0x4E, .three .lsrAbs),
  (0x50, .two .bvc),
  (0x51, .two .eorIzy),
  (0x55, .two .eorZpx),
  (0x56, .two .lsrZpx),
  (0x58, .one .cli),
  (0x59, .three .eorAby),
  (0x5D, .three .eorAbx),
  (0x5E, .three .lsrAbx)]

/-- Opcodes 0x60 to 0x7F (R130). -/
def rows67 : List (Nat × Row) := [
  (0x60, .one .rts),
  (0x61, .two .adcIzx),
  (0x65, .two .adcZp),
  (0x66, .two .rorZp),
  (0x68, .one .pla),
  (0x69, .two .adcImm),
  (0x6A, .one .rorAcc),
  (0x6C, .three .jmpInd),
  (0x6D, .three .adcAbs),
  (0x6E, .three .rorAbs),
  (0x70, .two .bvs),
  (0x71, .two .adcIzy),
  (0x75, .two .adcZpx),
  (0x76, .two .rorZpx),
  (0x78, .one .sei),
  (0x79, .three .adcAby),
  (0x7D, .three .adcAbx),
  (0x7E, .three .rorAbx)]

/-- Opcodes 0x80 to 0x9F (R130). -/
def rows89 : List (Nat × Row) := [
  (0x81, .two .staIzx),
  (0x84, .two .styZp),
  (0x85, .two .staZp),
  (0x86, .two .stxZp),
  (0x88, .one .dey),
  (0x8A, .one .txa),
  (0x8C, .three .styAbs),
  (0x8D, .three .staAbs),
  (0x8E, .three .stxAbs),
  (0x90, .two .bcc),
  (0x91, .two .staIzy),
  (0x94, .two .styZpx),
  (0x95, .two .staZpx),
  (0x96, .two .stxZpy),
  (0x98, .one .tya),
  (0x99, .three .staAby),
  (0x9A, .one .txs),
  (0x9D, .three .staAbx)]

/-- Opcodes 0xA0 to 0xBF (R130). -/
def rowsAB : List (Nat × Row) := [
  (0xA0, .two .ldyImm),
  (0xA1, .two .ldaIzx),
  (0xA2, .two .ldxImm),
  (0xA4, .two .ldyZp),
  (0xA5, .two .ldaZp),
  (0xA6, .two .ldxZp),
  (0xA8, .one .tay),
  (0xA9, .two .ldaImm),
  (0xAA, .one .tax),
  (0xAC, .three .ldyAbs),
  (0xAD, .three .ldaAbs),
  (0xAE, .three .ldxAbs),
  (0xB0, .two .bcs),
  (0xB1, .two .ldaIzy),
  (0xB4, .two .ldyZpx),
  (0xB5, .two .ldaZpx),
  (0xB6, .two .ldxZpy),
  (0xB8, .one .clv),
  (0xB9, .three .ldaAby),
  (0xBA, .one .tsx),
  (0xBC, .three .ldyAbx),
  (0xBD, .three .ldaAbx),
  (0xBE, .three .ldxAby)]

/-- Opcodes 0xC0 to 0xDF (R130). -/
def rowsCD : List (Nat × Row) := [
  (0xC0, .two .cpyImm),
  (0xC1, .two .cmpIzx),
  (0xC4, .two .cpyZp),
  (0xC5, .two .cmpZp),
  (0xC6, .two .decZp),
  (0xC8, .one .iny),
  (0xC9, .two .cmpImm),
  (0xCA, .one .dex),
  (0xCC, .three .cpyAbs),
  (0xCD, .three .cmpAbs),
  (0xCE, .three .decAbs),
  (0xD0, .two .bne),
  (0xD1, .two .cmpIzy),
  (0xD5, .two .cmpZpx),
  (0xD6, .two .decZpx),
  (0xD8, .one .cld),
  (0xD9, .three .cmpAby),
  (0xDD, .three .cmpAbx),
  (0xDE, .three .decAbx)]

/-- Opcodes 0xE0 to 0xFF (R130). -/
def rowsEF : List (Nat × Row) := [
  (0xE0, .two .cpxImm),
  (0xE1, .two .sbcIzx),
  (0xE4, .two .cpxZp),
  (0xE5, .two .sbcZp),
  (0xE6, .two .incZp),
  (0xE8, .one .inx),
  (0xE9, .two .sbcImm),
  (0xEA, .one .nop),
  (0xEC, .three .cpxAbs),
  (0xED, .three .sbcAbs),
  (0xEE, .three .incAbs),
  (0xF0, .two .beq),
  (0xF1, .two .sbcIzy),
  (0xF5, .two .sbcZpx),
  (0xF6, .two .incZpx),
  (0xF8, .one .sed),
  (0xF9, .three .sbcAby),
  (0xFD, .three .sbcAbx),
  (0xFE, .three .incAbx)]

/-- The opcode table (R130): 151 rows. -/
def opcodeRows : List (Nat × Row) :=
  rows01 ++ rows23 ++ rows45 ++ rows67 ++ rows89 ++ rowsAB ++ rowsCD ++ rowsEF

/-- Look an opcode up in a table. -/
def findRow : List (Nat × Row) → Nat → Option Row
  | [], _ => none
  | (k, r) :: t, n => if k = n then some r else findRow t n

/-- The row of an opcode byte; `none` for the 105 unrecognised bytes (R130, R132). -/
def decodeOpcode (op : Byte) : Option Row := findRow opcodeRows op.toNat

/-- Why bytes do not decode. -/
inductive DecodeError where
  /-- the opcode byte is in no row of R130 (R132) -/
  | unrecognizedOpcode (op : Byte)
  /-- the list of bytes ends before the instruction does -/
  | truncated
  deriving DecidableEq, Repr

/-- Decode the instruction at the head of a list of bytes, with the bytes after it. -/
def decode (bytes : List Byte) : Except DecodeError (Instr × List Byte) :=
  match bytes with
  | [] => .error .truncated
  | op :: rest =>
    match decodeOpcode op, rest with
    | none, _ => .error (.unrecognizedOpcode op)
    | some (.one i), _ => .ok (i, rest)
    | some (.two f), b :: rest' => .ok (f b, rest')
    | some (.two _), [] => .error .truncated
    | some (.three f), lo :: hi :: rest' => .ok (f (word16 lo hi), rest')
    | some (.three _), _ => .error .truncated

/-- Bits numbered as spec/opcode_table.json numbers them, laid out as the three bytes of the
longest instruction; the bits above `nbits` are 0. -/
def tableBytes (nbits w : Nat) : List Byte :=
  let v := w % 2 ^ nbits
  [BitVec.ofNat 8 v, BitVec.ofNat 8 (v / 256), BitVec.ofNat 8 (v / 65536)]

/-- What the decoder reads from an instruction whose bits are `w`. -/
def decodeTableWord (nbits w : Nat) : Option Instr :=
  match decode (tableBytes nbits w) with
  | .ok (i, _) => some i
  | .error _ => none

/-- The bytes of an instruction (R120, R121, R123, R130). -/
def encode (i : Instr) : List Byte :=
  match i with
  | .ldaImm imm => [0xA9, imm]
  | .ldaZp z => [0xA5, z]
  | .ldaZpx z => [0xB5, z]
  | .ldaAbs w => [0xAD, loByte w, hiByte w]
  | .ldaAbx w => [0xBD, loByte w, hiByte w]
  | .ldaAby w => [0xB9, loByte w, hiByte w]
  | .ldaIzx z => [0xA1, z]
  | .ldaIzy z => [0xB1, z]
  | .ldxImm imm => [0xA2, imm]
  | .ldxZp z => [0xA6, z]
  | .ldxZpy z => [0xB6, z]
  | .ldxAbs w => [0xAE, loByte w, hiByte w]
  | .ldxAby w => [0xBE, loByte w, hiByte w]
  | .ldyImm imm => [0xA0, imm]
  | .ldyZp z => [0xA4, z]
  | .ldyZpx z => [0xB4, z]
  | .ldyAbs w => [0xAC, loByte w, hiByte w]
  | .ldyAbx w => [0xBC, loByte w, hiByte w]
  | .staZp z => [0x85, z]
  | .staZpx z => [0x95, z]
  | .staAbs w => [0x8D, loByte w, hiByte w]
  | .staAbx w => [0x9D, loByte w, hiByte w]
  | .staAby w => [0x99, loByte w, hiByte w]
  | .staIzx z => [0x81, z]
  | .staIzy z => [0x91, z]
  | .stxZp z => [0x86, z]
  | .stxZpy z => [0x96, z]
  | .stxAbs w => [0x8E, loByte w, hiByte w]
  | .styZp z => [0x84, z]
  | .styZpx z => [0x94, z]
  | .styAbs w => [0x8C, loByte w, hiByte w]
  | .tax => [0xAA]
  | .tay => [0xA8]
  | .txa => [0x8A]
  | .tya => [0x98]
  | .tsx => [0xBA]
  | .txs => [0x9A]
  | .adcImm imm => [0x69, imm]
  | .adcZp z => [0x65, z]
  | .adcZpx z => [0x75, z]
  | .adcAbs w => [0x6D, loByte w, hiByte w]
  | .adcAbx w => [0x7D, loByte w, hiByte w]
  | .adcAby w => [0x79, loByte w, hiByte w]
  | .adcIzx z => [0x61, z]
  | .adcIzy z => [0x71, z]
  | .sbcImm imm => [0xE9, imm]
  | .sbcZp z => [0xE5, z]
  | .sbcZpx z => [0xF5, z]
  | .sbcAbs w => [0xED, loByte w, hiByte w]
  | .sbcAbx w => [0xFD, loByte w, hiByte w]
  | .sbcAby w => [0xF9, loByte w, hiByte w]
  | .sbcIzx z => [0xE1, z]
  | .sbcIzy z => [0xF1, z]
  | .andImm imm => [0x29, imm]
  | .andZp z => [0x25, z]
  | .andZpx z => [0x35, z]
  | .andAbs w => [0x2D, loByte w, hiByte w]
  | .andAbx w => [0x3D, loByte w, hiByte w]
  | .andAby w => [0x39, loByte w, hiByte w]
  | .andIzx z => [0x21, z]
  | .andIzy z => [0x31, z]
  | .oraImm imm => [0x09, imm]
  | .oraZp z => [0x05, z]
  | .oraZpx z => [0x15, z]
  | .oraAbs w => [0x0D, loByte w, hiByte w]
  | .oraAbx w => [0x1D, loByte w, hiByte w]
  | .oraAby w => [0x19, loByte w, hiByte w]
  | .oraIzx z => [0x01, z]
  | .oraIzy z => [0x11, z]
  | .eorImm imm => [0x49, imm]
  | .eorZp z => [0x45, z]
  | .eorZpx z => [0x55, z]
  | .eorAbs w => [0x4D, loByte w, hiByte w]
  | .eorAbx w => [0x5D, loByte w, hiByte w]
  | .eorAby w => [0x59, loByte w, hiByte w]
  | .eorIzx z => [0x41, z]
  | .eorIzy z => [0x51, z]
  | .bitZp z => [0x24, z]
  | .bitAbs w => [0x2C, loByte w, hiByte w]
  | .cmpImm imm => [0xC9, imm]
  | .cmpZp z => [0xC5, z]
  | .cmpZpx z => [0xD5, z]
  | .cmpAbs w => [0xCD, loByte w, hiByte w]
  | .cmpAbx w => [0xDD, loByte w, hiByte w]
  | .cmpAby w => [0xD9, loByte w, hiByte w]
  | .cmpIzx z => [0xC1, z]
  | .cmpIzy z => [0xD1, z]
  | .cpxImm imm => [0xE0, imm]
  | .cpxZp z => [0xE4, z]
  | .cpxAbs w => [0xEC, loByte w, hiByte w]
  | .cpyImm imm => [0xC0, imm]
  | .cpyZp z => [0xC4, z]
  | .cpyAbs w => [0xCC, loByte w, hiByte w]
  | .aslAcc => [0x0A]
  | .aslZp z => [0x06, z]
  | .aslZpx z => [0x16, z]
  | .aslAbs w => [0x0E, loByte w, hiByte w]
  | .aslAbx w => [0x1E, loByte w, hiByte w]
  | .lsrAcc => [0x4A]
  | .lsrZp z => [0x46, z]
  | .lsrZpx z => [0x56, z]
  | .lsrAbs w => [0x4E, loByte w, hiByte w]
  | .lsrAbx w => [0x5E, loByte w, hiByte w]
  | .rolAcc => [0x2A]
  | .rolZp z => [0x26, z]
  | .rolZpx z => [0x36, z]
  | .rolAbs w => [0x2E, loByte w, hiByte w]
  | .rolAbx w => [0x3E, loByte w, hiByte w]
  | .rorAcc => [0x6A]
  | .rorZp z => [0x66, z]
  | .rorZpx z => [0x76, z]
  | .rorAbs w => [0x6E, loByte w, hiByte w]
  | .rorAbx w => [0x7E, loByte w, hiByte w]
  | .incZp z => [0xE6, z]
  | .incZpx z => [0xF6, z]
  | .incAbs w => [0xEE, loByte w, hiByte w]
  | .incAbx w => [0xFE, loByte w, hiByte w]
  | .decZp z => [0xC6, z]
  | .decZpx z => [0xD6, z]
  | .decAbs w => [0xCE, loByte w, hiByte w]
  | .decAbx w => [0xDE, loByte w, hiByte w]
  | .inx => [0xE8]
  | .iny => [0xC8]
  | .dex => [0xCA]
  | .dey => [0x88]
  | .jmpAbs w => [0x4C, loByte w, hiByte w]
  | .jmpInd w => [0x6C, loByte w, hiByte w]
  | .jsr w => [0x20, loByte w, hiByte w]
  | .rts => [0x60]
  | .rti => [0x40]
  | .brk => [0x00]
  | .bcc off => [0x90, off]
  | .bcs off => [0xB0, off]
  | .beq off => [0xF0, off]
  | .bne off => [0xD0, off]
  | .bmi off => [0x30, off]
  | .bpl off => [0x10, off]
  | .bvc off => [0x50, off]
  | .bvs off => [0x70, off]
  | .pha => [0x48]
  | .php => [0x08]
  | .pla => [0x68]
  | .plp => [0x28]
  | .clc => [0x18]
  | .sec => [0x38]
  | .cli => [0x58]
  | .sei => [0x78]
  | .cld => [0xD8]
  | .sed => [0xF8]
  | .clv => [0xB8]
  | .nop => [0xEA]

end Sys2Proof
end

