-- ==== Sys2Proof/Machine/Fetch.lean ====
section
/-! DEFINITION. Fetching an instruction through the router, and where its bytes can be placed (40_processor_step.md R161, 30_encoding.md R123, R132). -/

namespace Sys2Proof.Machine

/-- What a fetch found. -/
inductive Fetched where
  /-- a recognised instruction, its bytes read -/
  | instr (i : Instr)
  /-- an unrecognised opcode byte; no operand byte is read (R132) -/
  | unrecognized (op : Byte)
  deriving DecidableEq, Repr

/-- Read the opcode at `pc`, then its operand bytes in ascending address order, through `BusRead`
(R123, R161 b). `pc` is not advanced here. -/
def fetch (s : State) : Fetched × State :=
  let op := busRead s.cpu.pc s
  match decodeOpcode op.1 with
  | none => (.unrecognized op.1, op.2)
  | some (.one i) => (.instr i, op.2)
  | some (.two f) =>
    let b := busRead (s.cpu.pc + 1) op.2
    (.instr (f b.1), b.2)
  | some (.three f) =>
    let lo := busRead (s.cpu.pc + 1) op.2
    let hi := busRead (s.cpu.pc + 2) lo.2
    (.instr (f (word16 lo.1 hi.1)), hi.2)

/-- Where a byte of code can be placed so that `BusRead(a)` returns it: work RAM, cartridge RAM or
the program window. -/
def holdsCode (a : Addr) : Bool := decide (a.toNat < 0x2000) || decide (0x6000 ≤ a.toNat)

/-- Place one byte where `BusRead(a)` reads it: in RAM, or, in the program window, in the image
byte the window shows there. Elsewhere nothing is placed. -/
def placeByte (a : Addr) (b : Byte) (s : State) : State :=
  if a.toNat < 0x2000 then { s with wram := s.wram.write (a.toNat % 2048) b }
  else if 0x8000 ≤ a.toNat then
    { s with cfg := { s.cfg with
      prg := s.cfg.prg.write (prgOffset s.cfg s.mapper (a.toNat - 0x8000)) b } }
  else if 0x6000 ≤ a.toNat then { s with cartRam := s.cartRam.write (a.toNat - 0x6000) b }
  else s

/-- Place bytes at consecutive addresses from `a`. -/
def placeBytes : Addr → List Byte → State → State
  | _, [], s => s
  | a, b :: bs, s => placeBytes (a + 1) bs (placeByte a b s)

/-- Make the next Processor step a boundary that services no interrupt: the countdown over, the
Processor running, no edge on the non-maskable line, no maskable request that is not masked. -/
def quietBoundary (s : State) : State :=
  let s1 : State := { s with cpu := { s.cpu with cyc := 0, halted := false, haltInfo := none,
                                                 nmiPrev := s.ppu.nmiLine } }
  if getFlag .intDisable s.cpu.p then s1
  else { s1.setMapper (clearInterrupt s1.mapper) with env := { s1.env with apuLevels := [false] } }

/-- The address the next instruction is placed at: `pc` where its three bytes can be held, else
address 0 in work RAM. -/
def codeAddr (pc : Addr) : Addr :=
  if holdsCode pc && holdsCode (pc + 1) && holdsCode (pc + 2) then pc else 0

end Sys2Proof.Machine
end

