-- ==== Sys2Proof/Machine/Ppu.lean ====
section
/-! DEFINITION. The Picture Generator's step: the dot/scanline state machine and its three pipelines (46_ppu_timing.md, 47_ppu_pipelines.md, 49_mapper_bus.md R500). -/

namespace Sys2Proof.Machine

/-- "Rendering enabled": `mask[3] | mask[4]` = 1 (R38). -/
def Ppu.rendering (p : Ppu) : Bool := p.mask[3] || p.mask[4]

/-! ## Scroll-address updates (R333 to R336) -/

/-- Horizontal increment (R333). -/
def incHorizontal (v : BitVec 15) : BitVec 15 :=
  if v &&& 0x001F = 31 then (v &&& 0x7FE0) ^^^ 0x0400 else v + 1

/-- Vertical increment (R334). -/
def incVertical (v : BitVec 15) : BitVec 15 :=
  if v.extractLsb' 12 3 ≠ 7 then v + 0x1000
  else
    let u := v &&& 0x0FFF
    let y := v.extractLsb' 5 5
    if y = 29 then (u &&& 0x7C1F) ^^^ 0x0800
    else if y = 31 then u &&& 0x7C1F
    else u + 0x0020

/-- Horizontal copy (R335). -/
def copyHorizontal (v t : BitVec 15) : BitVec 15 := (v &&& 0x7BE0) ||| (t &&& 0x041F)

/-- Vertical copy (R336). -/
def copyVertical (v t : BitVec 15) : BitVec 15 := (v &&& 0x041F) ||| (t &&& 0x7BE0)

/-! ## Fetch addresses -/

/-- Nametable address (R364). -/
def nametableAddr (v : BitVec 15) : PAddr := (0x2000 ||| (v &&& 0x0FFF)).setWidth 14

/-- Attribute address (R363). -/
def attributeAddr (v : BitVec 15) : PAddr :=
  (0x23C0#15 ||| (v &&& 0x0C00#15) ||| ((v >>> 4) &&& 0x38#15) ||| ((v >>> 2) &&& 0x07#15)).setWidth 14

/-- The shift that selects a tile's attribute pair (R363). -/
def attributeShift (v : BitVec 15) : Nat := (((v >>> 4) &&& 4) ||| (v &&& 2)).toNat

/-- Background pattern address, low plane (R365). -/
def Ppu.bgPatternAddr (p : Ppu) : PAddr :=
  (bit 14 p.ctrl[4] <<< 12) ||| (p.ntByte.setWidth 14 <<< 4) ||| (p.v.extractLsb' 12 3).setWidth 14

/-- The sprite height `h` (R370). -/
def Ppu.spriteHeight (p : Ppu) : Nat := if p.ctrl[5] then 16 else 8

/-- `SpriteRowAddr(tile, row)` (R376). -/
def spriteRowAddr (ctrl tile : Byte) (row : Nat) : PAddr :=
  let r := BitVec.ofNat 14 row
  if ctrl[5] then
    (bit 14 tile[0] <<< 12) ||| ((tile &&& 0xFE).setWidth 14 <<< 4) ||| ((r &&& 8) <<< 1) ||| (r &&& 7)
  else (bit 14 ctrl[3] <<< 12) ||| (tile.setWidth 14 <<< 4) ||| r

/-- `PatFetch(a)` (R500): the edge detector on address bit 12 clocks the Mapper's counter, then
the byte is read. -/
def patFetch (a : PAddr) (s : State) : Byte × State :=
  let s1 := if a[12] && !s.ppu.a12Prev then s.setMapper (advanceCounter s.cfg s.mapper) else s
  let s2 := s1.mapPpu fun p => { p with a12Prev := a[12] }
  (ppuRead s2 a, s2)

/-! ## Background pipeline -/

/-- Shift (R361). -/
def Ppu.shiftBackground (p : Ppu) : Ppu :=
  { p with bgLo := p.bgLo <<< 1, bgHi := p.bgHi <<< 1, atLo := p.atLo <<< 1, atHi := p.atHi <<< 1 }

/-- Nametable fetch (R364). -/
def fetchNametable (s : State) : State :=
  let b := ppuRead s (nametableAddr s.ppu.v)
  s.mapPpu fun p => { p with ntByte := b }

/-- Attribute fetch (R363). -/
def fetchAttribute (s : State) : State :=
  let ab := ppuRead s (attributeAddr s.ppu.v)
  s.mapPpu fun p => { p with atBits := (ab >>> attributeShift p.v).setWidth 2 }

/-- Low pattern-plane fetch (R365). -/
def fetchPatternLow (s : State) : State :=
  let r := patFetch s.ppu.bgPatternAddr s
  r.2.mapPpu fun p => { p with patLo := r.1 }

/-- High pattern-plane fetch (R365). -/
def fetchPatternHigh (s : State) : State :=
  let r := patFetch (s.ppu.bgPatternAddr + 8) s
  r.2.mapPpu fun p => { p with patHi := r.1 }

/-- Put a byte into the low half of a shift register. -/
def loadLow (r : BitVec 16) (b : Byte) : BitVec 16 := (r &&& 0xFF00) ||| b.setWidth 16

/-- An attribute bit broadcast across 8 bits (R366). -/
def broadcast (b : Bool) : Byte := if b then 0xFF else 0x00

/-- Load and horizontal increment (R366). -/
def Ppu.loadGroup (p : Ppu) : Ppu :=
  { p with bgLo := loadLow p.bgLo p.patLo
           bgHi := loadLow p.bgHi p.patHi
           atLo := loadLow p.atLo (broadcast p.atBits[0])
           atHi := loadLow p.atHi (broadcast p.atBits[1])
           v := incHorizontal p.v }

/-- Phase dispatch (R362). -/
def fetchPhase (d : Nat) (s : State) : State :=
  match d % 8 with
  | 0 => s.mapPpu Ppu.loadGroup
  | 1 => fetchNametable s
  | 3 => fetchAttribute s
  | 5 => fetchPatternLow s
  | 7 => fetchPatternHigh s
  | _ => s

/-- One dot of the background pipeline (R360): shift, then the phase action. -/
def backgroundDot (d : Nat) (s : State) : State := fetchPhase d (s.mapPpu Ppu.shiftBackground)

/-! ## Sprite evaluation and fetch -/

/-- OAM entry `n` (R45). -/
def Ppu.oamEntry (p : Ppu) (n : Nat) : SpriteEntry :=
  ⟨p.oam.read (4 * n), p.oam.read (4 * n + 1), p.oam.read (4 * n + 2), p.oam.read (4 * n + 3)⟩

/-- Entry `n` matches at scanline `s`: its span covers scanline `s + 1` (R370). -/
def Ppu.spriteMatches (p : Ppu) (s : Int) (n : Nat) : Bool :=
  let row := s - (p.oam.read (4 * n)).toNat
  decide (0 ≤ row) && decide (row < p.spriteHeight)

/-- The scan of one entry (R370). -/
def scanSprite (s : Int) (p : Ppu) (n : Nat) : Ppu :=
  if p.spriteMatches s n then
    if p.secCount < 8 then
      { p with sec := p.sec.setIfInBounds p.secCount (p.oamEntry n)
               spr0cand := if n = 0 then true else p.spr0cand
               secCount := p.secCount + 1 }
    else { p with sprovf := true }
  else p

/-- Sprite evaluation (R370). -/
def Ppu.evaluateSprites (s : Int) (p : Ppu) : Ppu :=
  (List.range 64).foldl (scanSprite s) { p with secCount := 0, spr0cand := false }

/-- The row of a sprite to fetch: vertical flip, and reduced `mod h` (R375). R375 asks for the reduction
where `ctrl[5]` changed between dots 256 and 257. DESIGN CHOICE (assumption 20; unsafe): it is made for
every row outside 0..h-1, so also for an entry selected on an earlier line, where rendering was off at
dot 256 and on at dot 257, of which R375 says nothing. -/
def spriteRow (s : Int) (h : Nat) (e : SpriteEntry) : Nat :=
  let row := s - e.y.toNat
  let row := if e.attr[7] then h - 1 - row else row
  (row % (h : Int)).toNat

/-- Fetch for one slot of the secondary table (R375): a valid entry loads its unit; an unused slot
makes two reads of tile 0xFF and loads a transparent unit (R378). -/
def fetchSprite (sl : Int) (s : State) (i : Nat) : State :=
  let e := s.ppu.sec[i]?.getD ⟨0, 0, 0, 0⟩
  let used := decide (i < s.ppu.secCount)
  let a := if used then
      spriteRowAddr s.ppu.ctrl e.tile (spriteRow sl s.ppu.spriteHeight e)
    else spriteRowAddr s.ppu.ctrl 0xFF 0
  let lo := patFetch a s
  let hi := patFetch (a + 8) lo.2
  let u : SpriteUnit := if used then
      ⟨e.x, e.attr, if e.attr[6] then rev8 lo.1 else lo.1, if e.attr[6] then rev8 hi.1 else hi.1⟩
    else ⟨0, 0, 0, 0⟩
  hi.2.mapPpu fun p => { p with su := p.su.setIfInBounds i u }

/-- Sprite fetch (R375): slots 0 to 7 in order. -/
def fetchSprites (sl : Int) (s : State) : State := (List.range 8).foldl (fetchSprite sl) s

/-! ## Pixel compositing -/

/-- Background pixel at column `x`: colour index `bgc` and palette selector `bgp` (R391). -/
def Ppu.bgPixel (p : Ppu) (x : Nat) : Nat × Nat :=
  if p.mask[3] && (decide (8 ≤ x) || p.mask[1]) then
    let b := 15 - p.fineX.toNat
    ((bit 2 (p.bgHi.getLsbD b) <<< 1 ||| bit 2 (p.bgLo.getLsbD b)).toNat,
     (bit 2 (p.atHi.getLsbD b) <<< 1 ||| bit 2 (p.atLo.getLsbD b)).toNat)
  else (0, 0)

/-- A sprite pixel: colour index, palette selector, priority bit, unit index (R392). -/
structure SpritePixel where
  color : Nat
  palette : Nat
  behind : Bool
  unit : Option Nat
  deriving DecidableEq, Repr

/-- The colour index a unit shows: 0 while its counter has not reached zero (R392). -/
def SpriteUnit.color (u : SpriteUnit) : Nat :=
  if u.xcnt = 0 then (bit 2 u.hi[7] <<< 1 ||| bit 2 u.lo[7]).toNat else 0

/-- The first opaque unit of a list of units numbered from `i` (R392). -/
def firstOpaque : List SpriteUnit → Nat → SpritePixel
  | [], _ => ⟨0, 0, false, none⟩
  | u :: us, i =>
    if u.color ≠ 0 then ⟨u.color, (u.attr.extractLsb' 0 2).toNat, u.attr[5], some i⟩
    else firstOpaque us (i + 1)

/-- Sprite pixel at column `x` (R392). -/
def Ppu.spritePixel (p : Ppu) (x : Nat) : SpritePixel :=
  if p.mask[4] && (decide (8 ≤ x) || p.mask[2]) then firstOpaque p.su.toList 0
  else ⟨0, 0, false, none⟩

/-- Sprite-zero hit (R394). -/
def Ppu.spriteZeroHit (p : Ppu) (x : Nat) : Bool :=
  let sp := p.spritePixel x
  decide ((p.bgPixel x).1 ≠ 0) && decide (sp.color ≠ 0) && decide (sp.unit = some 0) && p.spr0cand &&
  decide (x ≠ 255)

/-- Priority multiplexer: the 5-bit palette index (R393). -/
def paletteIndex (bg : Nat × Nat) (sp : SpritePixel) : Nat :=
  if bg.1 = 0 then
    if sp.color = 0 then 0 else 16 + 4 * sp.palette + sp.color
  else if sp.color = 0 then 4 * bg.2 + bg.1
  else if sp.behind then 4 * bg.2 + bg.1
  else 16 + 4 * sp.palette + sp.color

/-- Row `y` of the framebuffer (R50). -/
def Ppu.row (p : Ppu) (y : Nat) : Memory := p.fb[y]?.getD []

/-- `fb[y][x] <- c` (R50). -/
def Ppu.setPixel (y x : Nat) (c : BitVec 6) (p : Ppu) : Ppu :=
  { p with fb := p.fb.setIfInBounds y ((p.row y).write x (c.setWidth 8)) }

/-- `fb[y][x]` (R50). -/
def Ppu.pixel (p : Ppu) (y x : Nat) : BitVec 6 := ((p.row y).read x).setWidth 6

/-- Sprite unit update (R397). -/
def SpriteUnit.tick (u : SpriteUnit) : SpriteUnit :=
  if u.xcnt = 0 then { u with lo := u.lo <<< 1, hi := u.hi <<< 1 } else { u with xcnt := u.xcnt - 1 }

/-- The palette cell a pixel shows: `palette[PalIndex(0x3F00 | pi)]` (R395). -/
def Ppu.colorOf (p : Ppu) (i : Nat) : BitVec 6 := p.paletteAt (palIndex (BitVec.ofNat 14 (0x3F00 + i)))

/-- Compositing of column `x`, row `y` (R390); `palette[0]` alone with rendering disabled (R396). -/
def Ppu.composite (y x : Nat) (p : Ppu) : Ppu :=
  if p.rendering then
    let c := p.colorOf (paletteIndex (p.bgPixel x) (p.spritePixel x))
    { p.setPixel y x c with spr0hit := p.spr0hit || p.spriteZeroHit x, su := p.su.map SpriteUnit.tick }
  else p.setPixel y x (p.paletteAt 0)

/-! ## The step -/

/-- Flag events of the pre-render line's dot 1 (R323 a). -/
def Ppu.clearFlags (p : Ppu) : Ppu :=
  { p with vblank := false, spr0hit := false, sprovf := false, nmiLine := false }

/-- The event of scanline 241 dot 1 (R326, R331). -/
def enterVblank (s : State) : State :=
  (s.mapPpu fun p => { p with vblank := true, nmiLine := if p.ctrl[7] then true else p.nmiLine }).emit
    (.frameReady s.ppu.fb)

/-- `d` lies in the active fetch window (R328). -/
def inFetchWindow (d : Nat) : Bool :=
  (decide (1 ≤ d) && decide (d ≤ 256)) || (decide (321 ≤ d) && decide (d ≤ 336))

/-- Item (1) of R320. -/
def flagEvents (sl : Int) (d : Nat) (s : State) : State :=
  if d = 1 then
    if sl = -1 then s.mapPpu Ppu.clearFlags
    else if sl = 241 then enterVblank s
    else s
  else s

/-- Item (2) of R320. -/
def pixelEvent (sl : Int) (d : Nat) (s : State) : State :=
  if 0 ≤ sl ∧ sl ≤ 239 ∧ 1 ≤ d ∧ d ≤ 256 then s.mapPpu (Ppu.composite sl.toNat (d - 1)) else s

/-- Items (3) to (6) of R320, on scanlines -1 to 239 with rendering enabled. -/
def renderEvents (sl : Int) (d : Nat) (s : State) : State :=
  let s3 := if inFetchWindow d then backgroundDot d s else s
  let s4 := if d = 256 ∧ 0 ≤ sl then s3.mapPpu fun p => { p with v := incVertical p.v } else s3
  let s5 := if d = 256 then s4.mapPpu (Ppu.evaluateSprites sl) else s4
  if d = 257 then
    fetchSprites sl (s5.mapPpu fun p => { p with v := copyHorizontal p.v p.t })
  else s5

/-- Item (7) of R320. -/
def verticalCopyEvent (sl : Int) (d : Nat) (s : State) : State :=
  if sl = -1 ∧ 280 ≤ d ∧ d ≤ 304 then s.mapPpu fun p => { p with v := copyVertical p.v p.t } else s

/-- Counter advance (R321); `ren` is rendering as read at entry to the step. -/
def Ppu.advanceCounters (ren : Bool) (p : Ppu) : Ppu :=
  if p.dot + 1 = 341 then
    if p.scanline + 1 = 261 then
      { p with scanline := -1, odd := !p.odd, dot := if !p.odd && ren then 1 else 0 }
    else { p with scanline := p.scanline + 1, dot := 0 }
  else { p with dot := p.dot + 1 }

/-- `PpuStep()`, one dot (R320). -/
def ppuStep (s : State) : State :=
  let sl := s.ppu.scanline
  let d := s.ppu.dot
  let ren := s.ppu.rendering
  let s2 := pixelEvent sl d (flagEvents sl d s)
  let s6 := if ren = true ∧ -1 ≤ sl ∧ sl ≤ 239 then renderEvents sl d s2 else s2
  let s7 := if ren = true then verticalCopyEvent sl d s6 else s6
  s7.mapPpu (Ppu.advanceCounters ren)

end Sys2Proof.Machine
end

