-- ==== Sys2Proof/Machine/Step.lean ====
section
/-! DEFINITION. The step: one system tick, one Processor step then three dots (00_scope.md R9, 40_processor_step.md R160, R161). -/

namespace Sys2Proof.Machine

/-- The end of a Processor step that performed a boundary action: `cyc <- cyc - 1`, unless the
action raised a halt, which ends the step at once (R160, R520). -/
def countDown (s : State) : State := if s.cpu.halted then s else s.setCyc (s.cpu.cyc - 1)

/-- The fetch branch of the boundary action (R161 b to f). -/
def fetchAndExec (s : State) : Out :=
  match fetch s with
  | (.instr i, s1) => exec i s1
  | (.unrecognized op, s1) => .next (s1.raiseHalt .unrecognizedOpcode s.cpu.pc op none)

/-- The boundary action (R161): the interrupt poll, then a service or a fetch. -/
def boundary (s : State) : Out :=
  match pollResult s with
  | .nmi => .next ((service nmiVector (afterPoll s)).setCyc 7)
  | .irq => .next ((service irqVector (afterPoll s)).setCyc 7)
  | .nothing => fetchAndExec (afterPoll s)

/-- Apply `f` to the next state of an outcome. -/
def Out.map (f : State → State) (o : Out) : Out :=
  match o with
  | .next s => .next (f s)
  | .fault r => .fault r
  | .refused r => .refused r

/-- `step_count <- step_count + 1` (R160). -/
def countStep (s : State) : State := { s with stepCount := s.stepCount + 1 }

/-- `CpuStep()` (R160). -/
def cpuStep (s : State) : Out :=
  let s1 := countStep s
  if s1.cpu.halted then .next s1
  else if s1.cpu.cyc = 0 then Out.map countDown (boundary s1)
  else .next (countDown s1)

/-- The three dots that follow a Processor step (R9). -/
def threeDots (s : State) : State := ppuStep (ppuStep (ppuStep s))

/-- One system tick (R9): the Processor step, then three Picture-Generator steps. The audio
collaborator's tick is outside the block. -/
def step (s : State) : Host.Outcome State Fault Refusal := Out.map threeDots (cpuStep s)

/-- `s` with the instruction whose bits are `w` stored where the next step fetches, and the next
step made a boundary that fetches it. -/
def State.withFetchWord (s : State) (nbits w : Nat) : State :=
  let a := codeAddr s.cpu.pc
  (placeBytes a (tableBytes nbits w) (quietBoundary s)).setPc a

end Sys2Proof.Machine
end

