-- ==== Sys2Proof/Safety.lean ====
section
/-! DEFINITION. The terms claims use: the read of one plain memory byte, what an instruction leaves unchanged, and the invariants of the machine. -/

namespace Sys2Proof.Machine

/-! ## Memory as a claim sees it -/

/-- The byte that plain memory holds at processor address `a`: work RAM, cartridge RAM and the
program window (R74). `none` for a device, the audio/IO range and unclaimed space. -/
def State.peek (s : State) (a : Addr) : Option Byte :=
  if a.toNat < 0x2000 then some (s.wram.read (a.toNat % 2048))
  else if 0x8000 ≤ a.toNat then some (prgWin s.cfg s.mapper (a.toNat - 0x8000))
  else if 0x6000 ≤ a.toNat then some (s.cartRam.read (a.toNat - 0x6000))
  else none

/-- `a` and `b` are addresses of the same RAM cell: work RAM repeats every 2048 addresses (R72). -/
abbrev sameCell (a b : Addr) : Prop :=
  a = b ∨ (a.toNat < 0x2000 ∧ b.toNat < 0x2000 ∧ a.toNat % 2048 = b.toNat % 2048)

/-- `a` is an address of RAM: work RAM or cartridge RAM (R74). -/
abbrev isRam (a : Addr) : Prop := a.toNat < 0x2000 ∨ (0x6000 ≤ a.toNat ∧ a.toNat < 0x8000)

/-- `a` is a picture-generator port of number `p` (R76). -/
abbrev isPort (a : Addr) (p : Nat) : Prop := 0x2000 ≤ a.toNat ∧ a.toNat < 0x4000 ∧ a.toNat % 8 = p

/-- `a` lies in the audio/IO range answered by the environment (R72, R73). -/
abbrev isIo (a : Addr) : Prop := 0x4000 ≤ a.toNat ∧ a.toNat < 0x4018 ∧ a.toNat ≠ 0x4014

/-- A read of `a` has a side effect: port 2, port 7, or the audio/IO range (R88). -/
abbrev readHasEffect (a : Addr) : Prop := isPort a 2 ∨ isPort a 7 ∨ isIo a

/-- Every memory and every Mapper register of `t` is as in `s`: no byte an instruction could store
to differs, through the processor's space (`peek`) or through the ports. -/
structure SameStore (s t : State) : Prop where
  cfg : t.cfg = s.cfg
  mapper : t.mapper = s.mapper
  wram : t.wram = s.wram
  cartRam : t.cartRam = s.cartRam
  ntram : t.ntram = s.ntram
  ntramExt : t.ntramExt = s.ntramExt
  patRam : t.patRam = s.patRam
  oam : t.ppu.oam = s.ppu.oam
  palette : t.ppu.palette = s.ppu.palette
  bytes : ∀ a, t.peek a = s.peek a

/-- Everything outside the Processor's registers is as in `s`. -/
def SameOutsideCpu (s t : State) : Prop := t = { s with cpu := t.cpu }

/-! ## Flags as a claim sees them -/

/-- `q` is `p` with Z and N set from `v` and every other bit as it was (R12, R25). -/
def ZNFrom (p q v : Byte) : Prop :=
  ∀ i < 8, q.getLsbD i = if i = 1 then v == 0 else if i = 7 then v.getLsbD 7 else p.getLsbD i

/-- `q` is `p` with C, Z and N written and every other bit as it was. -/
def CZNFrom (p q v : Byte) (c : Bool) : Prop :=
  ∀ i < 8, q.getLsbD i =
    if i = 0 then c else if i = 1 then v == 0 else if i = 7 then v.getLsbD 7 else p.getLsbD i

/-- `q` is `p` with C, Z, V and N written and every other bit as it was. -/
def CZVNFrom (p q v : Byte) (c o : Bool) : Prop :=
  ∀ i < 8, q.getLsbD i =
    if i = 0 then c else if i = 1 then v == 0 else if i = 6 then o
    else if i = 7 then v.getLsbD 7 else p.getLsbD i

/-- `q` is `p` with bit `k` equal to `b` and every other bit as it was. -/
def BitFrom (p q : Byte) (k : Nat) (b : Bool) : Prop :=
  ∀ i < 8, q.getLsbD i = if i = k then b else p.getLsbD i

/-- `q` is `p` after a comparison of the register `r` with `m`: C the unsigned comparison, Z and N from
the difference modulo 256, every other bit as it was (R227). -/
def CompareFrom (r m p q : Byte) : Prop :=
  ∀ i < 8, q.getLsbD i =
    if i = 0 then decide (m.toNat ≤ r.toNat)
    else if i = 1 then decide (((r.toNat : Int) - m.toNat) % 256 = 0)
    else if i = 7 then decide (128 ≤ ((r.toNat : Int) - m.toNat) % 256)
    else p.getLsbD i

/-- `q` is `p` after BIT of `a` with `m`: Z from the conjunction, V and N from bits 6 and 7 of `m`,
every other bit as it was (R226). -/
def BitTestFrom (a m p q : Byte) : Prop :=
  ∀ i < 8, q.getLsbD i =
    if i = 1 then decide (a &&& m = 0)
    else if i = 6 then m.getLsbD 6
    else if i = 7 then m.getLsbD 7
    else p.getLsbD i

/-! ## Operands in whole numbers (R164 to R174) -/

/-- The length in bytes of an instruction with this operand (R121, R124). -/
def operandLength (o : Operand) : Nat :=
  match o with
  | .imm _ => 2
  | .zp _ => 2
  | .zpx _ => 2
  | .zpy _ => 2
  | .abs _ => 3
  | .abx _ => 3
  | .aby _ => 3
  | .izx _ => 2
  | .izy _ => 2

/-- The pointer at page-0 address `z`, its second byte wrapping in the page (R173, R174). -/
def pointerAt (s : State) (z : Nat) : Nat :=
  (s.wram.read z).toNat + 256 * (s.wram.read ((z + 1) % 256)).toNat

/-- The effective address as a number (R164 to R167, R169 to R171, R173, R174). -/
def operandAddress (o : Operand) (s : State) : Nat :=
  match o with
  | .imm _ => (s.cpu.pc.toNat + 1) % 65536
  | .zp z => z.toNat
  | .zpx z => (z.toNat + s.cpu.x.toNat) % 256
  | .zpy z => (z.toNat + s.cpu.y.toNat) % 256
  | .abs w => w.toNat
  | .abx w => (w.toNat + s.cpu.x.toNat) % 65536
  | .aby w => (w.toNat + s.cpu.y.toNat) % 65536
  | .izx z => pointerAt s ((z.toNat + s.cpu.x.toNat) % 256)
  | .izy z => (pointerAt s z.toNat + s.cpu.y.toNat) % 65536

/-- The base address of the three forms that can cross a page (R170, R171, R174). -/
def operandBase (o : Operand) (s : State) : Option Nat :=
  match o with
  | .abx w => some w.toNat
  | .aby w => some w.toNat
  | .izy z => some (pointerAt s z.toNat)
  | .imm _ => none
  | .zp _ => none
  | .zpx _ => none
  | .zpy _ => none
  | .abs _ => none
  | .izx _ => none

/-- The indexed address has another high byte than the base (R170). -/
def operandCrosses (o : Operand) (s : State) : Bool :=
  match operandBase o s with
  | none => false
  | some b => decide (operandAddress o s / 256 ≠ b / 256)

/-! ## The forms of the instructions that have an operand (R130) -/

/-- One opcode: its byte, the instruction, its operand, its base cost (R130). -/
structure Form where
  opcode : Byte
  instr : Instr
  operand : Operand
  base : Nat
  deriving DecidableEq, Repr

/-- The encoding starts with the form's opcode byte and has its operand's length (R130). -/
abbrev Form.Encoded (f : Form) : Prop :=
  (encode f.instr).head? = some f.opcode ∧ (encode f.instr).length = operandLength f.operand

/-- One opcode of the implied or accumulator mode: its byte, the instruction, its cost (R130). -/
abbrev Encoded1 (op : Byte) (i : Instr) : Prop := encode i = [op]

/-- A three-byte opcode whose operand is a 16-bit address (R121). -/
abbrev Encoded3 (op : Byte) (w : Addr) (i : Instr) : Prop := encode i = [op, loByte w, hiByte w]

/-- The operand forms of LDA (R191). -/
def ldaForms (b : Byte) (w : Addr) : List Form := [
  ⟨0xA9, .ldaImm b, .imm b, 2⟩, ⟨0xA5, .ldaZp b, .zp b, 3⟩, ⟨0xB5, .ldaZpx b, .zpx b, 4⟩,
  ⟨0xAD, .ldaAbs w, .abs w, 4⟩, ⟨0xBD, .ldaAbx w, .abx w, 4⟩, ⟨0xB9, .ldaAby w, .aby w, 4⟩,
  ⟨0xA1, .ldaIzx b, .izx b, 6⟩, ⟨0xB1, .ldaIzy b, .izy b, 5⟩]

/-- The operand forms of LDX (R192). -/
def ldxForms (b : Byte) (w : Addr) : List Form := [
  ⟨0xA2, .ldxImm b, .imm b, 2⟩, ⟨0xA6, .ldxZp b, .zp b, 3⟩, ⟨0xB6, .ldxZpy b, .zpy b, 4⟩,
  ⟨0xAE, .ldxAbs w, .abs w, 4⟩, ⟨0xBE, .ldxAby w, .aby w, 4⟩]

/-- The operand forms of LDY (R193). -/
def ldyForms (b : Byte) (w : Addr) : List Form := [
  ⟨0xA0, .ldyImm b, .imm b, 2⟩, ⟨0xA4, .ldyZp b, .zp b, 3⟩, ⟨0xB4, .ldyZpx b, .zpx b, 4⟩,
  ⟨0xAC, .ldyAbs w, .abs w, 4⟩, ⟨0xBC, .ldyAbx w, .abx w, 4⟩]

/-- The operand forms of STA (R194). -/
def staForms (b : Byte) (w : Addr) : List Form := [
  ⟨0x85, .staZp b, .zp b, 3⟩, ⟨0x95, .staZpx b, .zpx b, 4⟩, ⟨0x8D, .staAbs w, .abs w, 4⟩,
  ⟨0x9D, .staAbx w, .abx w, 5⟩, ⟨0x99, .staAby w, .aby w, 5⟩, ⟨0x81, .staIzx b, .izx b, 6⟩,
  ⟨0x91, .staIzy b, .izy b, 6⟩]

/-- The operand forms of STX (R195). -/
def stxForms (b : Byte) (w : Addr) : List Form := [
  ⟨0x86, .stxZp b, .zp b, 3⟩, ⟨0x96, .stxZpy b, .zpy b, 4⟩, ⟨0x8E, .stxAbs w, .abs w, 4⟩]

/-- The operand forms of STY (R196). -/
def styForms (b : Byte) (w : Addr) : List Form := [
  ⟨0x84, .styZp b, .zp b, 3⟩, ⟨0x94, .styZpx b, .zpx b, 4⟩, ⟨0x8C, .styAbs w, .abs w, 4⟩]

/-- The operand forms of ADC (R221). -/
def adcForms (b : Byte) (w : Addr) : List Form := [
  ⟨0x69, .adcImm b, .imm b, 2⟩, ⟨0x65, .adcZp b, .zp b, 3⟩, ⟨0x75, .adcZpx b, .zpx b, 4⟩,
  ⟨0x6D, .adcAbs w, .abs w, 4⟩, ⟨0x7D, .adcAbx w, .abx w, 4⟩, ⟨0x79, .adcAby w, .aby w, 4⟩,
  ⟨0x61, .adcIzx b, .izx b, 6⟩, ⟨0x71, .adcIzy b, .izy b, 5⟩]

/-- The operand forms of SBC (R222). -/
def sbcForms (b : Byte) (w : Addr) : List Form := [
  ⟨0xE9, .sbcImm b, .imm b, 2⟩, ⟨0xE5, .sbcZp b, .zp b, 3⟩, ⟨0xF5, .sbcZpx b, .zpx b, 4⟩,
  ⟨0xED, .sbcAbs w, .abs w, 4⟩, ⟨0xFD, .sbcAbx w, .abx w, 4⟩, ⟨0xF9, .sbcAby w, .aby w, 4⟩,
  ⟨0xE1, .sbcIzx b, .izx b, 6⟩, ⟨0xF1, .sbcIzy b, .izy b, 5⟩]

/-- The operand forms of AND (R223). -/
def andForms (b : Byte) (w : Addr) : List Form := [
  ⟨0x29, .andImm b, .imm b, 2⟩, ⟨0x25, .andZp b, .zp b, 3⟩, ⟨0x35, .andZpx b, .zpx b, 4⟩,
  ⟨0x2D, .andAbs w, .abs w, 4⟩, ⟨0x3D, .andAbx w, .abx w, 4⟩, ⟨0x39, .andAby w, .aby w, 4⟩,
  ⟨0x21, .andIzx b, .izx b, 6⟩, ⟨0x31, .andIzy b, .izy b, 5⟩]

/-- The operand forms of ORA (R224). -/
def oraForms (b : Byte) (w : Addr) : List Form := [
  ⟨0x09, .oraImm b, .imm b, 2⟩, ⟨0x05, .oraZp b, .zp b, 3⟩, ⟨0x15, .oraZpx b, .zpx b, 4⟩,
  ⟨0x0D, .oraAbs w, .abs w, 4⟩, ⟨0x1D, .oraAbx w, .abx w, 4⟩, ⟨0x19, .oraAby w, .aby w, 4⟩,
  ⟨0x01, .oraIzx b, .izx b, 6⟩, ⟨0x11, .oraIzy b, .izy b, 5⟩]

/-- The operand forms of EOR (R225). -/
def eorForms (b : Byte) (w : Addr) : List Form := [
  ⟨0x49, .eorImm b, .imm b, 2⟩, ⟨0x45, .eorZp b, .zp b, 3⟩, ⟨0x55, .eorZpx b, .zpx b, 4⟩,
  ⟨0x4D, .eorAbs w, .abs w, 4⟩, ⟨0x5D, .eorAbx w, .abx w, 4⟩, ⟨0x59, .eorAby w, .aby w, 4⟩,
  ⟨0x41, .eorIzx b, .izx b, 6⟩, ⟨0x51, .eorIzy b, .izy b, 5⟩]

/-- The operand forms of BIT (R226). -/
def bitForms (b : Byte) (w : Addr) : List Form := [
  ⟨0x24, .bitZp b, .zp b, 3⟩, ⟨0x2C, .bitAbs w, .abs w, 4⟩]

/-- The operand forms of CMP (R227). -/
def cmpForms (b : Byte) (w : Addr) : List Form := [
  ⟨0xC9, .cmpImm b, .imm b, 2⟩, ⟨0xC5, .cmpZp b, .zp b, 3⟩, ⟨0xD5, .cmpZpx b, .zpx b, 4⟩,
  ⟨0xCD, .cmpAbs w, .abs w, 4⟩, ⟨0xDD, .cmpAbx w, .abx w, 4⟩, ⟨0xD9, .cmpAby w, .aby w, 4⟩,
  ⟨0xC1, .cmpIzx b, .izx b, 6⟩, ⟨0xD1, .cmpIzy b, .izy b, 5⟩]

/-- The operand forms of CPX (R228). -/
def cpxForms (b : Byte) (w : Addr) : List Form := [
  ⟨0xE0, .cpxImm b, .imm b, 2⟩, ⟨0xE4, .cpxZp b, .zp b, 3⟩, ⟨0xEC, .cpxAbs w, .abs w, 4⟩]

/-- The operand forms of CPY (R229). -/
def cpyForms (b : Byte) (w : Addr) : List Form := [
  ⟨0xC0, .cpyImm b, .imm b, 2⟩, ⟨0xC4, .cpyZp b, .zp b, 3⟩, ⟨0xCC, .cpyAbs w, .abs w, 4⟩]

/-- The operand forms of ASL (R251). -/
def aslForms (b : Byte) (w : Addr) : List Form := [
  ⟨0x06, .aslZp b, .zp b, 5⟩, ⟨0x16, .aslZpx b, .zpx b, 6⟩, ⟨0x0E, .aslAbs w, .abs w, 6⟩,
  ⟨0x1E, .aslAbx w, .abx w, 7⟩]

/-- The operand forms of LSR (R252). -/
def lsrForms (b : Byte) (w : Addr) : List Form := [
  ⟨0x46, .lsrZp b, .zp b, 5⟩, ⟨0x56, .lsrZpx b, .zpx b, 6⟩, ⟨0x4E, .lsrAbs w, .abs w, 6⟩,
  ⟨0x5E, .lsrAbx w, .abx w, 7⟩]

/-- The operand forms of ROL (R253). -/
def rolForms (b : Byte) (w : Addr) : List Form := [
  ⟨0x26, .rolZp b, .zp b, 5⟩, ⟨0x36, .rolZpx b, .zpx b, 6⟩, ⟨0x2E, .rolAbs w, .abs w, 6⟩,
  ⟨0x3E, .rolAbx w, .abx w, 7⟩]

/-- The operand forms of ROR (R254). -/
def rorForms (b : Byte) (w : Addr) : List Form := [
  ⟨0x66, .rorZp b, .zp b, 5⟩, ⟨0x76, .rorZpx b, .zpx b, 6⟩, ⟨0x6E, .rorAbs w, .abs w, 6⟩,
  ⟨0x7E, .rorAbx w, .abx w, 7⟩]

/-- The operand forms of INC (R255). -/
def incForms (b : Byte) (w : Addr) : List Form := [
  ⟨0xE6, .incZp b, .zp b, 5⟩, ⟨0xF6, .incZpx b, .zpx b, 6⟩, ⟨0xEE, .incAbs w, .abs w, 6⟩,
  ⟨0xFE, .incAbx w, .abx w, 7⟩]

/-- The operand forms of DEC (R256). -/
def decForms (b : Byte) (w : Addr) : List Form := [
  ⟨0xC6, .decZp b, .zp b, 5⟩, ⟨0xD6, .decZpx b, .zpx b, 6⟩, ⟨0xCE, .decAbs w, .abs w, 6⟩,
  ⟨0xDE, .decAbx w, .abx w, 7⟩]


/-- The 105 unrecognised opcode bytes (R132). -/
def unrecognizedBytes : List Nat := [
  0x02, 0x03, 0x04, 0x07, 0x0B, 0x0C, 0x0F, 0x12, 0x13, 0x14, 0x17, 0x1A, 0x1B, 0x1C,
  0x1F, 0x22, 0x23, 0x27, 0x2B, 0x2F, 0x32, 0x33, 0x34, 0x37, 0x3A, 0x3B, 0x3C, 0x3F,
  0x42, 0x43, 0x44, 0x47, 0x4B, 0x4F, 0x52, 0x53, 0x54, 0x57, 0x5A, 0x5B, 0x5C, 0x5F,
  0x62, 0x63, 0x64, 0x67, 0x6B, 0x6F, 0x72, 0x73, 0x74, 0x77, 0x7A, 0x7B, 0x7C, 0x7F,
  0x80, 0x82, 0x83, 0x87, 0x89, 0x8B, 0x8F, 0x92, 0x93, 0x97, 0x9B, 0x9C, 0x9E, 0x9F,
  0xA3, 0xA7, 0xAB, 0xAF, 0xB2, 0xB3, 0xB7, 0xBB, 0xBF, 0xC2, 0xC3, 0xC7, 0xCB, 0xCF,
  0xD2, 0xD3, 0xD4, 0xD7, 0xDA, 0xDB, 0xDC, 0xDF, 0xE2, 0xE3, 0xE7, 0xEB, 0xEF, 0xF2,
  0xF3, 0xF4, 0xF7, 0xFA, 0xFB, 0xFC, 0xFF]

/-- The shifts and rotates, in whole numbers: from the operand `v` and the old carry `c`, the result and
the bit displaced (R251 to R254). -/
def shiftTable (b : Byte) (w : Addr) : List (List Form × (Byte → Bool → Byte × Bool)) := [
  (aslForms b w, fun v _ => (BitVec.ofNat 8 (2 * v.toNat), v.getLsbD 7)),
  (lsrForms b w, fun v _ => (BitVec.ofNat 8 (v.toNat / 2), v.getLsbD 0)),
  (rolForms b w, fun v c => (BitVec.ofNat 8 (2 * v.toNat + c.toNat), v.getLsbD 7)),
  (rorForms b w, fun v c => (BitVec.ofNat 8 (v.toNat / 2 + 128 * c.toNat), v.getLsbD 0))]

/-- INC and DEC with what each computes (R255, R256). -/
def stepTable (b : Byte) (w : Addr) : List (List Form × (Byte → Byte)) :=
  [(incForms b w, fun v => v + 1), (decForms b w, fun v => v - 1)]

/-- The stores with the register each writes (R194 to R196). -/
def storeTable (b : Byte) (w : Addr) (s : State) : List (List Form × Byte) :=
  [(staForms b w, s.cpu.a), (stxForms b w, s.cpu.x), (styForms b w, s.cpu.y)]

/-- A branch: its opcode byte, the instruction, whether its condition holds. -/
structure Branch where
  opcode : Byte
  instr : Instr
  taken : Bool
  deriving DecidableEq, Repr

/-- The eight branches and their conditions under the status byte `p`: C is bit 0, Z bit 1, V bit 6,
N bit 7 (R24, R277 to R284). -/
def branchTable (off p : Byte) : List Branch := [
  ⟨0x90, .bcc off, !p.getLsbD 0⟩, ⟨0xB0, .bcs off, p.getLsbD 0⟩,
  ⟨0xF0, .beq off, p.getLsbD 1⟩, ⟨0xD0, .bne off, !p.getLsbD 1⟩,
  ⟨0x30, .bmi off, p.getLsbD 7⟩, ⟨0x10, .bpl off, !p.getLsbD 7⟩,
  ⟨0x50, .bvc off, !p.getLsbD 6⟩, ⟨0x70, .bvs off, p.getLsbD 6⟩]

/-- A flag instruction: its opcode byte, the instruction, the bit of `P` it writes and the value. -/
structure FlagOp where
  opcode : Byte
  instr : Instr
  bit : Nat
  value : Bool
  deriving DecidableEq, Repr

/-- The seven flag instructions (R304 to R310). -/
def flagTable : List FlagOp := [
  ⟨0x18, .clc, 0, false⟩, ⟨0x38, .sec, 0, true⟩, ⟨0x58, .cli, 2, false⟩, ⟨0x78, .sei, 2, true⟩,
  ⟨0xD8, .cld, 3, false⟩, ⟨0xF8, .sed, 3, true⟩, ⟨0xB8, .clv, 6, false⟩]

/-- The result and carry of a shift or rotate of a memory operand. -/
def shiftResult (g : Byte → Bool → Byte × Bool) (o : Operand) (s : State) : Byte × Bool :=
  g (readOperand o s).1 (s.cpu.p.getLsbD 0)

/-- The status byte `p` with bit 0, the carry, equal to `c` (R24). -/
def withCarry (c : Bool) (p : Byte) : Byte := (p &&& 0xFE) ||| BitVec.ofNat 8 c.toNat

/-- The state a memory shift's bus write acts on: the operand read, the carry written. -/
def shiftBefore (g : Byte → Bool → Byte × Bool) (o : Operand) (s : State) : State :=
  let u := (readOperand o s).2
  { u with cpu := { u.cpu with p := withCarry (shiftResult g o s).2 u.cpu.p } }

/-- The next address in the same page: the low byte wraps (R172). -/
def samePageNext (a : Addr) : Addr := BitVec.ofNat 16 (a.toNat / 256 * 256 + (a.toNat + 1) % 256)

/-! ## What instructions leave -/

/-- Of the Processor, what an instruction with an operand never writes besides its destination and
flags: the stack pointer, the halt record, the line sample. -/
structure KeptRegs (s t : State) : Prop where
  sp : t.cpu.s = s.cpu.s
  halted : t.cpu.halted = s.cpu.halted
  haltInfo : t.cpu.haltInfo = s.cpu.haltInfo
  nmiPrev : t.cpu.nmiPrev = s.cpu.nmiPrev

/-- What a read instruction does besides its destination and flags: `pc`, `pgx`, the cost with its
page-cross cycle (R178), the operand read's own side effects and nothing else (R190). -/
structure ReadDone (f : Form) (s t : State) : Prop where
  encoded : f.Encoded
  pc : t.cpu.pc = s.cpu.pc + BitVec.ofNat 16 (operandLength f.operand)
  pgx : t.cpu.pgx = operandCrosses f.operand s
  cyc : t.cpu.cyc = f.base + (if operandCrosses f.operand s then 1 else 0)
  kept : KeptRegs s t
  outside : t = { (readOperand f.operand s).2 with cpu := t.cpu }
  store : SameStore s t
  ports : t.ppu = { s.ppu with
    vblank := t.ppu.vblank, w := t.ppu.w, rdbuf := t.ppu.rdbuf, v := t.ppu.v }
  quiet : f.operand.immediate?.isSome ∨ ¬ readHasEffect (resolve f.operand s).1 → SameOutsideCpu s t

/-- What an instruction that writes `r` to a RAM operand does besides its flags (R190, R250): one
cell changes, and no other byte of memory. -/
structure RamWritten (f : Form) (r : Byte) (s t : State) : Prop where
  encoded : f.Encoded
  pc : t.cpu.pc = s.cpu.pc + BitVec.ofNat 16 (operandLength f.operand)
  pgx : t.cpu.pgx = operandCrosses f.operand s
  cyc : t.cpu.cyc = f.base
  kept : KeptRegs s t
  a : t.cpu.a = s.cpu.a
  x : t.cpu.x = s.cpu.x
  y : t.cpu.y = s.cpu.y
  outside : t = { s with cpu := t.cpu, wram := t.wram, cartRam := t.cartRam }
  bytes : ∀ a, t.peek a = if sameCell (resolve f.operand s).1 a then some r else s.peek a

/-- What an instruction that writes `r` to a device or Mapper operand does besides its flags, `u`
being the state its bus write acts on: every effect outside the Processor is that bus write's; no
byte of RAM changes, nor any byte at all when the address lies below the program window. -/
structure DeviceWritten (f : Form) (r : Byte) (u s t : State) : Prop where
  encoded : f.Encoded
  pc : t.cpu.pc = s.cpu.pc + BitVec.ofNat 16 (operandLength f.operand)
  pgx : t.cpu.pgx = operandCrosses f.operand s
  cyc : t.cpu.cyc = f.base + (if (resolve f.operand s).1 = 0x4014 then s.cfg.oamDmaStall else 0)
  kept : KeptRegs s t
  a : t.cpu.a = s.cpu.a
  x : t.cpu.x = s.cpu.x
  y : t.cpu.y = s.cpu.y
  outside : t = { busWrite (resolve f.operand s).1 r u with cpu := t.cpu }
  bytes : ∀ a, a.toNat < 0x8000 ∨ (resolve f.operand s).1.toNat < 0x8000 → t.peek a = s.peek a

/-- What an implied or accumulator instruction that touches no memory does besides its destination
and flags: `pc` by one byte, `pgx` cleared, a fixed cost, nothing outside the Processor. -/
structure ImpliedDone (op : Byte) (i : Instr) (cost : Nat) (s t : State) : Prop where
  encoded : Encoded1 op i
  pc : t.cpu.pc = s.cpu.pc + 1
  pgx : t.cpu.pgx = false
  cyc : t.cpu.cyc = cost
  halted : t.cpu.halted = s.cpu.halted
  haltInfo : t.cpu.haltInfo = s.cpu.haltInfo
  nmiPrev : t.cpu.nmiPrev = s.cpu.nmiPrev
  outside : SameOutsideCpu s t
  bytes : ∀ a, t.peek a = s.peek a

/-- The mirroring a committed control value selects (R474). -/
def controlMirror (c : Config) (val : Nat) : Mirror :=
  if c.fourScreen then .fourScreen
  else if val % 4 = 0 then .oneScreenLow
  else if val % 4 = 1 then .oneScreenHigh
  else if val % 4 = 2 then .vertical
  else .horizontal

/-- `m` with `val` in the Serial register that the address of a fifth write names (R473, R474). -/
def serialTarget (c : Config) (a : Addr) (val : BitVec 5) (m : Mapper) : Mapper :=
  if a.toNat < 0xA000 then
    { m with mirror := controlMirror c val.toNat, serial := { m.serial with control := val } }
  else if a.toNat < 0xC000 then { m with serial := { m.serial with chrBank0 := val } }
  else if a.toNat < 0xE000 then { m with serial := { m.serial with chrBank1 := val } }
  else { m with serial := { m.serial with prgBank := val } }

/-- The Mapper with the bank registers that a write of `d` to `a` would commit, which the check of R457
is made on: the Serial variant's reset write (R472) or fifth write (R473), the Scanline variant's bank
select (R482) or bank data (R483). -/
def proposed (a : Addr) (d : Byte) (s : State) : Mapper :=
  match s.cfg.variant with
  | .fixed => s.mapper
  | .serial =>
    if d.getLsbD 7 then
      { s.mapper with serial := { s.mapper.serial with control := s.mapper.serial.control ||| 0x0C } }
    else serialTarget s.cfg a
      (BitVec.ofNat 5 (s.mapper.serial.sr.toNat / 2 + 16 * (d.getLsbD 0).toNat)) s.mapper
  | .scanline =>
    if a.toNat % 2 = 0 then { s.mapper with scan := { s.mapper.scan with bankSelect := d } }
    else { s.mapper with scan := { s.mapper.scan with
      bankReg := s.mapper.scan.bankReg.set (s.mapper.scan.bankSelect.toNat % 8) d (by omega) } }

/-- A store or read-modify-write that ended in a Mapper fault (R457, R522): the bank in the record is
one of those out of range under the registers the write would have committed. -/
structure Faulted (f : Form) (r p : Byte) (s t : State) : Prop where
  window : 0x8000 ≤ (resolve f.operand s).1.toNat
  cpu : ∃ n ∈ failingBanks s.cfg (proposed (resolve f.operand s).1 r s), t.cpu = { s.cpu with
    pc := s.cpu.pc + BitVec.ofNat 16 (operandLength f.operand)
    pgx := operandCrosses f.operand s
    p := p
    halted := true
    haltInfo := some ⟨.mapperFault, (resolve f.operand s).1, r, some n⟩ }
  outside : t = { s with cpu := t.cpu, mapper := t.mapper }
  mapper : t.mapper = { s.mapper with serial := { s.mapper.serial with
    sr := t.mapper.serial.sr, srCount := t.mapper.serial.srCount
    lastWrite := t.mapper.serial.lastWrite } }
  bytes : ∀ a, t.peek a = s.peek a

/-- The three bytes an interrupt or BRK leaves on the stack: the return address, high byte at
`0x0100 | S`, low byte below it, the status byte below that; every other byte as before (R535). -/
def StackFrame (s t : State) (ret : Addr) (status : Byte) : Prop :=
  ∀ a, t.peek a =
    if sameCell (stackAddr (s.cpu.s - 2)) a then some status
    else if sameCell (stackAddr (s.cpu.s - 1)) a then some (loByte ret)
    else if sameCell (stackAddr s.cpu.s) a then some (hiByte ret)
    else s.peek a

/-- Everything outside the Processor's registers and work RAM is as in `s`. -/
def SameOutsideCpuAndWram (s t : State) : Prop := t = { s with cpu := t.cpu, wram := t.wram }

/-- Everything a serviced interrupt does at a boundary (R530, R535): the frame on the stack, `S` three
lower, `I` set, `pc` from the vector, `cyc` 7, the line sampled; nothing else. -/
structure ServiceDone (vec : Addr) (s t : State) : Prop where
  cpu : t.cpu = { s.cpu with
    s := s.cpu.s - 3
    p := t.cpu.p
    pc := word16 (busRead vec s).1 (busRead (vec + 1) s).1
    cyc := 7
    nmiPrev := s.ppu.nmiLine }
  flags : BitFrom s.cpu.p t.cpu.p 2 true
  frame : StackFrame s t s.cpu.pc ((s.cpu.p ||| 0x20) &&& 0xEF)
  outside : t = { s with
    cpu := t.cpu, wram := t.wram, env := { s.env with
      apuLevels := s.env.apuLevels.tail, apuDraws := s.env.apuDraws + 1 } }

/-- `n` system ticks (R9). -/
def stepN : Nat → State → Out
  | 0, s => .next s
  | n + 1, s =>
    match step s with
    | .next t => stepN n t
    | .fault r => .fault r
    | .refused r => .refused r

/-! ## The Picture Generator -/

/-- What a dot leaves unchanged: the Processor, the configuration, every memory but the framebuffer,
the environment, the bank registers, and every register the ports alone write (R96, R99, R337). -/
structure DotFrame (s t : State) : Prop where
  outside : t = { s with ppu := t.ppu, mapper := t.mapper, events := t.events }
  mapper : t.mapper = { s.mapper with
    irqPending := t.mapper.irqPending
    scan := { s.mapper.scan with
      irqCounter := t.mapper.scan.irqCounter, irqReload := t.mapper.scan.irqReload } }
  ports : t.ppu.t = s.ppu.t ∧ t.ppu.fineX = s.ppu.fineX ∧ t.ppu.w = s.ppu.w ∧
    t.ppu.ctrl = s.ppu.ctrl ∧ t.ppu.mask = s.ppu.mask ∧ t.ppu.oamAddr = s.ppu.oamAddr ∧
    t.ppu.rdbuf = s.ppu.rdbuf ∧ t.ppu.oam = s.ppu.oam ∧ t.ppu.palette = s.ppu.palette

/-- `n` applications of `f`. -/
def iterate {α : Type} (f : α → α) : Nat → α → α
  | 0, x => x
  | n + 1, x => iterate f n (f x)

/-- Rendering enabled on a line that fetches: scanlines -1 to 239 (R38, R320). -/
abbrev rendersLine (s : State) : Prop :=
  (s.ppu.mask.getLsbD 3 = true ∨ s.ppu.mask.getLsbD 4 = true) ∧
  -1 ≤ s.ppu.scanline ∧ s.ppu.scanline ≤ 239

/-- The dots of the active fetch window (R328). -/
abbrev fetchDot (d : Nat) : Prop := (1 ≤ d ∧ d ≤ 256) ∨ (321 ≤ d ∧ d ≤ 336)

/-- The dots that show a pixel (R320 item 2). -/
abbrev pixelDot (s : State) : Prop :=
  0 ≤ s.ppu.scanline ∧ s.ppu.scanline ≤ 239 ∧ 1 ≤ s.ppu.dot ∧ s.ppu.dot ≤ 256

/-- The fields of a scroll address (R33): tile column, tile row, nametable bits, row in the tile. -/
def coarseX (v : BitVec 15) : Nat := v.toNat % 32
def coarseY (v : BitVec 15) : Nat := v.toNat / 32 % 32
def nameX (v : BitVec 15) : Nat := v.toNat / 1024 % 2
def nameY (v : BitVec 15) : Nat := v.toNat / 2048 % 2
def fineY (v : BitVec 15) : Nat := v.toNat / 4096

/-- `u` has the horizontal fields of `h` and the vertical fields of `v`. -/
structure ScrollFrom (h v u : BitVec 15) : Prop where
  coarseX : coarseX u = coarseX h
  nameX : nameX u = nameX h
  coarseY : coarseY u = coarseY v
  nameY : nameY u = nameY v
  fineY : fineY u = fineY v

/-- `u` is `v` one tile to the right (R333). -/
def HorizontalStep (v u : BitVec 15) : Prop :=
  coarseY u = coarseY v ∧ nameY u = nameY v ∧ fineY u = fineY v ∧
  if coarseX v = 31 then coarseX u = 0 ∧ nameX u = 1 - nameX v
  else coarseX u = coarseX v + 1 ∧ nameX u = nameX v

/-- `u` is `v` one row further down (R334). -/
def VerticalStep (v u : BitVec 15) : Prop :=
  coarseX u = coarseX v ∧ nameX u = nameX v ∧
  if fineY v < 7 then fineY u = fineY v + 1 ∧ coarseY u = coarseY v ∧ nameY u = nameY v
  else fineY u = 0 ∧
    if coarseY v = 29 then coarseY u = 0 ∧ nameY u = 1 - nameY v
    else if coarseY v = 31 then coarseY u = 0 ∧ nameY u = nameY v
    else coarseY u = coarseY v + 1 ∧ nameY u = nameY v

/-- A shift register after one shift (R361), as a number. -/
def shifted (r : BitVec 16) : Nat := 2 * r.toNat % 65536

/-- A shift register after one shift and the load of its low byte (R361, R366). -/
def loaded (r : BitVec 16) (b : Nat) : Nat := shifted r / 256 * 256 + b

/-- The background shift registers after a dot of the fetch window (R361, R366). -/
structure BackgroundShifted (s t : State) : Prop where
  shift : s.ppu.dot % 8 ≠ 0 →
    t.ppu.bgLo.toNat = shifted s.ppu.bgLo ∧ t.ppu.bgHi.toNat = shifted s.ppu.bgHi ∧
    t.ppu.atLo.toNat = shifted s.ppu.atLo ∧ t.ppu.atHi.toNat = shifted s.ppu.atHi
  load : s.ppu.dot % 8 = 0 →
    t.ppu.bgLo.toNat = loaded s.ppu.bgLo s.ppu.patLo.toNat ∧
    t.ppu.bgHi.toNat = loaded s.ppu.bgHi s.ppu.patHi.toNat ∧
    t.ppu.atLo.toNat = loaded s.ppu.atLo (255 * (s.ppu.atBits.getLsbD 0).toNat) ∧
    t.ppu.atHi.toNat = loaded s.ppu.atHi (255 * (s.ppu.atBits.getLsbD 1).toNat)

/-- The attribute byte's address: the block of four by four tiles in the last 64 bytes of the
nametable (R363). -/
def attributeCell (v : BitVec 15) : PAddr :=
  BitVec.ofNat 14 (0x23C0 + 1024 * (v.toNat / 1024 % 4) + 8 * (coarseY v / 4) + coarseX v / 4)

/-- The pattern row a background tile shows (R365). -/
def patternCell (s : State) : Nat :=
  4096 * (s.ppu.ctrl.getLsbD 4).toNat + 16 * s.ppu.ntByte.toNat + fineY s.ppu.v

/-- The background latches after a dot of the fetch window (R362 to R365). -/
structure BackgroundLatched (s t : State) : Prop where
  ntByte : t.ppu.ntByte = if s.ppu.dot % 8 = 1
    then ppuRead s (BitVec.ofNat 14 (0x2000 + s.ppu.v.toNat % 4096)) else s.ppu.ntByte
  atBits : t.ppu.atBits.toNat = if s.ppu.dot % 8 = 3
    then (ppuRead s (attributeCell s.ppu.v)).toNat /
      2 ^ (2 * (coarseX s.ppu.v / 2 % 2) + 4 * (coarseY s.ppu.v / 2 % 2)) % 4
    else s.ppu.atBits.toNat
  patLo : t.ppu.patLo = if s.ppu.dot % 8 = 5
    then ppuRead s (BitVec.ofNat 14 (patternCell s)) else s.ppu.patLo
  patHi : t.ppu.patHi = if s.ppu.dot % 8 = 7
    then ppuRead s (BitVec.ofNat 14 (patternCell s + 8)) else s.ppu.patHi

/-- The background pipeline is as it was. -/
structure BackgroundKept (s t : State) : Prop where
  ntByte : t.ppu.ntByte = s.ppu.ntByte
  atBits : t.ppu.atBits = s.ppu.atBits
  patLo : t.ppu.patLo = s.ppu.patLo
  patHi : t.ppu.patHi = s.ppu.patHi
  bgLo : t.ppu.bgLo = s.ppu.bgLo
  bgHi : t.ppu.bgHi = s.ppu.bgHi
  atLo : t.ppu.atLo = s.ppu.atLo
  atHi : t.ppu.atHi = s.ppu.atHi

/-- The sprite height: 16 or 8 rows (R37, R370). -/
def spriteRows (s : State) : Nat := if s.ppu.ctrl.getLsbD 5 then 16 else 8

/-- Object entry `n` covers the line after the current one (R370). -/
def coversNext (s : State) (n : Nat) : Bool :=
  decide (((s.ppu.oam.read (4 * n)).toNat : Int) ≤ s.ppu.scanline) &&
  decide (s.ppu.scanline < (s.ppu.oam.read (4 * n)).toNat + spriteRows s)

/-- The object entries that cover the next line, in order (R370). -/
def nextSprites (s : State) : List Nat := (List.range 64).filter (coversNext s)

/-- The four bytes of object entry `n` (R45). -/
def objectEntry (s : State) (n : Nat) : SpriteEntry :=
  ⟨s.ppu.oam.read (4 * n), s.ppu.oam.read (4 * n + 1), s.ppu.oam.read (4 * n + 2),
    s.ppu.oam.read (4 * n + 3)⟩

/-- The row of its pattern a selected sprite shows on the next line, flipped where asked (R375), reduced
into the sprite's height wherever it lies outside (the model's choice: assumption 20). -/
def spriteLine (s : State) (e : SpriteEntry) : Nat :=
  ((if e.attr.getLsbD 7 then spriteRows s - 1 - (s.ppu.scanline - e.y.toNat)
    else s.ppu.scanline - e.y.toNat) % (spriteRows s : Int)).toNat

/-- The pattern address of that row's low plane (R376). -/
def spriteCell (s : State) (e : SpriteEntry) : Nat :=
  if s.ppu.ctrl.getLsbD 5 then
    4096 * (e.tile.toNat % 2) + 32 * (e.tile.toNat / 2) + 16 * (spriteLine s e / 8) + spriteLine s e % 8
  else 4096 * (s.ppu.ctrl.getLsbD 3).toNat + 16 * e.tile.toNat + spriteLine s e

/-- A sprite unit loaded from the selected entry `e`, mirrored where asked (R375, R377). -/
structure UnitLoaded (s : State) (e : SpriteEntry) (u : SpriteUnit) : Prop where
  xcnt : u.xcnt = e.x
  attr : u.attr = e.attr
  lo : ∀ j < 8, u.lo.getLsbD j = (ppuRead s (BitVec.ofNat 14 (spriteCell s e))).getLsbD
    (if e.attr.getLsbD 6 then 7 - j else j)
  hi : ∀ j < 8, u.hi.getLsbD j = (ppuRead s (BitVec.ofNat 14 (spriteCell s e + 8))).getLsbD
    (if e.attr.getLsbD 6 then 7 - j else j)

/-- The background's colour index and palette selector at column `x` (R391). -/
def backgroundShown (s : State) (x : Nat) : Nat × Nat :=
  if s.ppu.mask.getLsbD 3 && (decide (8 ≤ x) || s.ppu.mask.getLsbD 1) then
    (2 * (s.ppu.bgHi.getLsbD (15 - s.ppu.fineX.toNat)).toNat +
        (s.ppu.bgLo.getLsbD (15 - s.ppu.fineX.toNat)).toNat,
     2 * (s.ppu.atHi.getLsbD (15 - s.ppu.fineX.toNat)).toNat +
        (s.ppu.atLo.getLsbD (15 - s.ppu.fineX.toNat)).toNat)
  else (0, 0)

/-- The colour index a sprite unit would show (R392). -/
def unitColor (u : SpriteUnit) : Nat := 2 * (u.hi.getLsbD 7).toNat + (u.lo.getLsbD 7).toNat

/-- The sprite unit shown at column `x`: the first whose counter is 0 and whose colour index is not
0 (R392). -/
def unitShown (s : State) (x : Nat) : Option (Fin 8) :=
  if s.ppu.mask.getLsbD 4 && (decide (8 ≤ x) || s.ppu.mask.getLsbD 2) then
    (List.finRange 8).find? fun i => decide (s.ppu.su[i].xcnt = 0) && decide (unitColor s.ppu.su[i] ≠ 0)
  else none

/-- The palette cell of the pixel at column `x` (R393). -/
def paletteCell (s : State) (x : Nat) : Nat :=
  match unitShown s x with
  | none => if (backgroundShown s x).1 = 0 then 0
      else 4 * (backgroundShown s x).2 + (backgroundShown s x).1
  | some i =>
    if (backgroundShown s x).1 = 0 ∨ s.ppu.su[i].attr.getLsbD 5 = false then
      16 + 4 * (s.ppu.su[i].attr.toNat % 4) + unitColor s.ppu.su[i]
    else 4 * (backgroundShown s x).2 + (backgroundShown s x).1

/-- The sprite-zero condition at column `x` (R394). -/
def zeroHit (s : State) (x : Nat) : Bool :=
  decide ((backgroundShown s x).1 ≠ 0) && decide (unitShown s x = some 0) && s.ppu.spr0cand &&
  decide (x ≠ 255)

/-- A sprite unit after a pixel (R397). -/
structure UnitTicked (u w : SpriteUnit) : Prop where
  attr : w.attr = u.attr
  waiting : u.xcnt ≠ 0 → w.xcnt.toNat = u.xcnt.toNat - 1 ∧ w.lo = u.lo ∧ w.hi = u.hi
  shifting : u.xcnt = 0 →
    w.xcnt = 0 ∧ w.lo.toNat = 2 * u.lo.toNat % 256 ∧ w.hi.toNat = 2 * u.hi.toNat % 256

/-- Address bit 12 of each pattern read the dot makes, in order (R362, R375, R376, R378). -/
def patternBits (s : State) : List Bool :=
  if rendersLine s ∧ fetchDot s.ppu.dot ∧ (s.ppu.dot % 8 = 5 ∨ s.ppu.dot % 8 = 7) then
    [s.ppu.ctrl.getLsbD 4]
  else if rendersLine s ∧ s.ppu.dot = 257 then
    (List.finRange 8).flatMap fun (i : Fin 8) =>
      if s.ppu.ctrl.getLsbD 5 then
        if i.val < s.ppu.secCount then [s.ppu.sec[i].tile.getLsbD 0, s.ppu.sec[i].tile.getLsbD 0]
        else [true, true]
      else [s.ppu.ctrl.getLsbD 3, s.ppu.ctrl.getLsbD 3]
  else []

/-- The rising transitions of a line whose last level was `prev` (R500). -/
def rises : Bool → List Bool → Nat
  | _, [] => 0
  | prev, b :: bs => (if b && !prev then 1 else 0) + rises b bs

/-! ## The picture-generator memory -/

/-- The physical nametable of logical nametable `q` (R97). -/
def nametableOf (mir : Mirror) (q : Nat) : Nat :=
  match mir with
  | .horizontal => q / 2
  | .vertical => q % 2
  | .oneScreenLow => 0
  | .oneScreenHigh => 1
  | .fourScreen => q

/-- The physical nametable an address of the nametable range lies in (R97). -/
def nametableAt (s : State) (a : PAddr) : Nat := nametableOf s.mapper.mirror (a.toNat % 4096 / 1024)

/-- The palette cell of an address: 16, 20, 24 and 28 are cells 0, 4, 8 and 12 (R98). -/
def paletteCellAt (a : PAddr) : Nat :=
  if a.toNat % 32 = 16 ∨ a.toNat % 32 = 20 ∨ a.toNat % 32 = 24 ∨ a.toNat % 32 = 28 then a.toNat % 32 - 16
  else a.toNat % 32

/-- The data port's next address: 1 or 32 further (R426). -/
def nextData (s : State) : BitVec 15 :=
  BitVec.ofNat 15 (s.ppu.v.toNat + if s.ppu.ctrl.getLsbD 2 then 32 else 1)

/-! ## The Mapper -/

/-- A write the Serial variant ignores: too soon after the last (R471). -/
abbrev tooSoon (s : State) : Prop :=
  ∃ k, s.mapper.serial.lastWrite = some k ∧ s.stepCount < k + s.cfg.serialMinSpacing

/-- A switchable slot of a mapped window: in the pattern window or the program window, its size in
bytes, its index, the bank number its registers name, and how many banks of that size the image has. -/
structure Slot where
  pattern : Bool
  size : Nat
  index : Nat
  bank : Nat
  count : Nat
  deriving DecidableEq, Repr

/-- The Serial variant's switchable program halves, by layout, `control[3:2]` (R474, R475). -/
def serialProgram (c : Config) (r : SerialRegs) : List Slot :=
  let p := r.prgBank.toNat % 16
  let half (h b : Nat) : Slot := ⟨false, 16384, h, b, c.prgBanks16⟩
  if r.control.toNat / 4 % 4 = 2 then [half 1 p]
  else if r.control.toNat / 4 % 4 = 3 then [half 0 p]
  else [half 0 (p / 2 * 2), half 1 (p / 2 * 2 + 1)]

/-- The Serial variant's pattern halves, by granularity, `control[4]` (R474, R476). -/
def serialPattern (c : Config) (r : SerialRegs) : List Slot :=
  let half (h b : Nat) : Slot := ⟨true, 4096, h, b, 2 * c.chrBanks8⟩
  if r.control.getLsbD 4 then [half 0 r.chrBank0.toNat, half 1 r.chrBank1.toNat]
  else [half 0 (r.chrBank0.toNat / 2 * 2), half 1 (r.chrBank0.toNat / 2 * 2 + 1)]

/-- The Scanline variant's two switchable program slots, by layout, `bank_select[6]` (R490). -/
def scanProgram (c : Config) (r : ScanlineRegs) : List Slot :=
  let slot (k b : Nat) : Slot := ⟨false, 8192, k, b, 2 * c.prgBanks16⟩
  if r.bankSelect.getLsbD 6 then [slot 1 r.bankReg[7].toNat, slot 2 r.bankReg[6].toNat]
  else [slot 0 r.bankReg[6].toNat, slot 1 r.bankReg[7].toNat]

/-- The Scanline variant's eight pattern slots, whose halves `bank_select[7]` exchanges (R491). -/
def scanPattern (c : Config) (r : ScanlineRegs) : List Slot :=
  let slot (k b : Nat) : Slot :=
    ⟨true, 1024, if r.bankSelect.getLsbD 7 then (k + 4) % 8 else k, b, 8 * c.chrBanks8⟩
  [slot 0 (r.bankReg[0].toNat / 2 * 2), slot 1 (r.bankReg[0].toNat / 2 * 2 + 1),
   slot 2 (r.bankReg[1].toNat / 2 * 2), slot 3 (r.bankReg[1].toNat / 2 * 2 + 1),
   slot 4 r.bankReg[2].toNat, slot 5 r.bankReg[3].toNat,
   slot 6 r.bankReg[4].toNat, slot 7 r.bankReg[5].toNat]

/-- The switchable slots of the mapped windows; of the pattern window only when there is pattern ROM
(R452). The Fixed variant has none (R462). -/
def switchable (c : Config) (m : Mapper) : List Slot :=
  match c.variant with
  | .fixed => []
  | .serial => serialProgram c m.serial ++ if 0 < c.chrBanks8 then serialPattern c m.serial else []
  | .scanline => scanProgram c m.scan ++ if 0 < c.chrBanks8 then scanPattern c m.scan else []

/-- A store of byte `d` to address `a` in Processor step `n`, as the Mapper sees it. -/
def storeAt (s : State) (w : Nat × Addr × Byte) : State := busWrite w.2.1 w.2.2 { s with stepCount := w.1 }

/-- Either the new registers are in place, or a region fails the check, the registers are as they
were and the Processor has halted with the address, the byte and a bank (R457). -/
def Committed (a : Addr) (d : Byte) (m' : Mapper) (s t : State) : Prop :=
  (failingBanks s.cfg m' = [] ∧ t = { s with mapper := m' }) ∨
  (failingBanks s.cfg m' ≠ [] ∧ ∃ n ∈ failingBanks s.cfg m', t = { s with cpu := { s.cpu with
    halted := true, haltInfo := some ⟨.mapperFault, a, d, some n⟩ } })

/-! ## Invariants -/

/-- Every memory is in canonical form and inside its size (R7). -/
structure MemoriesOk (s : State) : Prop where
  wram : s.wram.Wf ∧ s.wram.Below 2048
  ntram : s.ntram.Wf ∧ s.ntram.Below 2048
  ntramExt : s.ntramExt.Wf ∧ s.ntramExt.Below 2048
  cartRam : s.cartRam.Wf ∧ s.cartRam.Below 8192
  patRam : s.patRam.Wf ∧ s.patRam.Below 8192
  oam : s.ppu.oam.Wf ∧ s.ppu.oam.Below 256
  fb : ∀ y < 240, (s.ppu.row y).Wf ∧ (s.ppu.row y).Below 256

/-- Bit 5 of `P` is 1 and bit 4 is 0 (R24). -/
abbrev StatusOk (s : State) : Prop := s.cpu.p.getLsbD 5 = true ∧ s.cpu.p.getLsbD 4 = false

/-- The counters of the Picture Generator stand on the timing grid (R48, R322). -/
abbrev GridOk (s : State) : Prop := s.ppu.dot ≤ 340 ∧ -1 ≤ s.ppu.scanline ∧ s.ppu.scanline ≤ 260

/-- The halted flag and its record agree (R29). -/
abbrev HaltOk (s : State) : Prop := s.cpu.halted = s.cpu.haltInfo.isSome

/-- `cyc` is at most `7 + OAM_DMA_STALL` (R27). -/
abbrev CycOk (s : State) : Prop := s.cpu.cyc ≤ 7 + s.cfg.oamDmaStall

/-- The Mapper's line is low in the Fixed and Serial variants, four-screen mirroring stays, and
fewer than five bits are in the Serial shift register (R53, R56, R474, R484). -/
abbrev MapperOk (s : State) : Prop :=
  (s.cfg.variant ≠ .scanline → s.mapper.irqPending = false) ∧
  (s.cfg.fourScreen = true → s.mapper.mirror = .fourScreen) ∧
  s.mapper.serial.srCount ≤ 4

/-- No region of the mapped windows is out of range (R456, R457). -/
abbrev BanksOk (s : State) : Prop := failingBanks s.cfg s.mapper = []

/-- At most eight sprites are in the secondary object table (R46). -/
abbrev SpritesOk (s : State) : Prop := s.ppu.secCount ≤ 8

/-- The launch's memories are in canonical form and inside their sizes. -/
structure Launch.Ok (l : Launch) : Prop where
  wram : l.wram.Wf ∧ l.wram.Below 2048
  ntram : l.ntram.Wf ∧ l.ntram.Below 2048
  ntramExt : l.ntramExt.Wf ∧ l.ntramExt.Below 2048
  cartRam : l.cartRam.Wf ∧ l.cartRam.Below 8192
  patRam : l.patRam.Wf ∧ l.patRam.Below 8192
  oam : l.oam.Wf ∧ l.oam.Below 256
  fb : ∀ y < 240, Memory.Wf (l.fb[y]?.getD []) ∧ Memory.Below (l.fb[y]?.getD []) 256

end Sys2Proof.Machine
end

