-- ==== Sys2Proof/Certificates/Slice0/Obligations.lean ====
section
/-! DEFINITION. The statements for the provers, each from the numbered rules of the spec. -/

open Sys2Proof Sys2Proof.Machine

/-! ## Encoding -/

/-- Decoding the encoding of any instruction, with any bytes after it, gives the instruction back and
the bytes after it (R120, R121, R123, R130, R134). -/
def Obligations.DecodeEncode : Prop :=
  ∀ (i : Instr) (rest : List Byte), i.wellFormed = true ∧ decode (encode i ++ rest) = .ok (i, rest)

/-- Whatever decodes is the encoding of what it decodes to, followed by the rest: no two encodings
mean one instruction and no bit is ignored (R120, R130). -/
def Obligations.EncodeDecode : Prop :=
  ∀ (bytes : List Byte) (i : Instr) (rest : List Byte),
    decode bytes = .ok (i, rest) → bytes = encode i ++ rest

/-- The 105 opcode bytes of R132 are exactly those in no row of R130, and each is refused by name. -/
def Obligations.UnrecognizedBytes : Prop :=
  (∀ op : Byte, decodeOpcode op = none ↔ op.toNat ∈ unrecognizedBytes) ∧
  unrecognizedBytes.length = 105 ∧
  ∀ op ∈ unrecognizedBytes, ∀ rest : List Byte,
    decode (BitVec.ofNat 8 op :: rest) = .error (.unrecognizedOpcode (BitVec.ofNat 8 op))

/-- Words written out from the spec's encodings, one or two per family, decode to the instruction
they stand for. -/
def Obligations.SpecWords : Prop :=
  decode [0xA9, 0x80] = .ok (.ldaImm 0x80, []) ∧ decode [0xAD, 0x02, 0x20] = .ok (.ldaAbs 0x2002, []) ∧
  decode [0x8D, 0x00, 0x20] = .ok (.staAbs 0x2000, []) ∧ decode [0x86, 0x10] = .ok (.stxZp 0x10, []) ∧
  decode [0x69, 0x50] = .ok (.adcImm 0x50, []) ∧ decode [0xE9, 0xF0] = .ok (.sbcImm 0xF0, []) ∧
  decode [0x2C, 0x02, 0x20] = .ok (.bitAbs 0x2002, []) ∧ decode [0xC9, 0x41] = .ok (.cmpImm 0x41, []) ∧
  decode [0x0A] = .ok (.aslAcc, []) ∧ decode [0xE6, 0x10] = .ok (.incZp 0x10, []) ∧
  decode [0x20, 0x34, 0x12] = .ok (.jsr 0x1234, []) ∧ decode [0x6C, 0xFF, 0x02] = .ok (.jmpInd 0x02FF, []) ∧
  decode [0xD0, 0xFB] = .ok (.bne 0xFB, []) ∧ decode [0x00] = .ok (.brk, []) ∧
  decode [0x08] = .ok (.php, []) ∧ decode [0xEA] = .ok (.nop, []) ∧ decode [0xA1, 0xFE] = .ok (.ldaIzx 0xFE, [])

/-! ## Operands -/

/-- Operand resolution, in whole numbers: the effective address, `pc` past the instruction, the
page-cross flag, and nothing else (R164 to R167, R169 to R171, R173, R174); and the operand read: the
immediate byte, which the fetch has read (assumption 18), or else one bus read at the effective address
after resolution (R164, R190). -/
def Obligations.OperandResolution : Prop :=
  ∀ (o : Operand) (s : State),
    (resolve o s).1.toNat = operandAddress o s ∧
    (resolve o s).2 = { s with cpu := { s.cpu with
      pc := s.cpu.pc + BitVec.ofNat 16 (operandLength o), pgx := operandCrosses o s } } ∧
    (∀ b : Byte, o = .imm b → readOperand o s = (b, (resolve o s).2)) ∧
    ((∀ b : Byte, o ≠ .imm b) → readOperand o s = busRead (resolve o s).1 (resolve o s).2)

/-! ## Loads, stores, transfers -/

/-- LDA, LDX, LDY in all their forms: the destination takes the operand byte, Z and N come from it
(R191, R192, R193). -/
def Obligations.Loads : Prop :=
  ∀ (b : Byte) (w : Addr) (s : State),
    (∀ f ∈ ldaForms b w, ∃ t, exec f.instr s = .next t ∧ ReadDone f s t ∧
      t.cpu.a = (readOperand f.operand s).1 ∧ t.cpu.x = s.cpu.x ∧ t.cpu.y = s.cpu.y ∧
      ZNFrom s.cpu.p t.cpu.p (readOperand f.operand s).1) ∧
    (∀ f ∈ ldxForms b w, ∃ t, exec f.instr s = .next t ∧ ReadDone f s t ∧
      t.cpu.x = (readOperand f.operand s).1 ∧ t.cpu.a = s.cpu.a ∧ t.cpu.y = s.cpu.y ∧
      ZNFrom s.cpu.p t.cpu.p (readOperand f.operand s).1) ∧
    (∀ f ∈ ldyForms b w, ∃ t, exec f.instr s = .next t ∧ ReadDone f s t ∧
      t.cpu.y = (readOperand f.operand s).1 ∧ t.cpu.a = s.cpu.a ∧ t.cpu.x = s.cpu.x ∧
      ZNFrom s.cpu.p t.cpu.p (readOperand f.operand s).1)

/-- STA, STX, STY to RAM: one cell takes the register, and nothing else changes (R194, R195, R196). -/
def Obligations.StoresToRam : Prop :=
  ∀ (b : Byte) (w : Addr) (s : State), s.cpu.halted = false →
    (∀ f ∈ staForms b w, isRam (resolve f.operand s).1 →
      ∃ t, exec f.instr s = .next t ∧ RamWritten f s.cpu.a s t ∧ t.cpu.p = s.cpu.p) ∧
    (∀ f ∈ stxForms b w, isRam (resolve f.operand s).1 →
      ∃ t, exec f.instr s = .next t ∧ RamWritten f s.cpu.x s t ∧ t.cpu.p = s.cpu.p) ∧
    (∀ f ∈ styForms b w, isRam (resolve f.operand s).1 →
      ∃ t, exec f.instr s = .next t ∧ RamWritten f s.cpu.y s t ∧ t.cpu.p = s.cpu.p)

/-- STA, STX, STY to a device, the Mapper's registers or unclaimed space, where the write raises no
halt: exactly that one bus write, and the object-DMA stall where it applies (R194 to R196, R178,
R180). -/
def Obligations.StoresElsewhere : Prop :=
  ∀ (b : Byte) (w : Addr) (s : State), s.cpu.halted = false →
    (∀ f ∈ staForms b w, ¬ isRam (resolve f.operand s).1 →
      (busWrite (resolve f.operand s).1 s.cpu.a (resolve f.operand s).2).cpu.halted = false →
      ∃ t, exec f.instr s = .next t ∧
        DeviceWritten f s.cpu.a (resolve f.operand s).2 s t ∧ t.cpu.p = s.cpu.p) ∧
    (∀ f ∈ stxForms b w, ¬ isRam (resolve f.operand s).1 →
      (busWrite (resolve f.operand s).1 s.cpu.x (resolve f.operand s).2).cpu.halted = false →
      ∃ t, exec f.instr s = .next t ∧
        DeviceWritten f s.cpu.x (resolve f.operand s).2 s t ∧ t.cpu.p = s.cpu.p) ∧
    (∀ f ∈ styForms b w, ¬ isRam (resolve f.operand s).1 →
      (busWrite (resolve f.operand s).1 s.cpu.y (resolve f.operand s).2).cpu.halted = false →
      ∃ t, exec f.instr s = .next t ∧
        DeviceWritten f s.cpu.y (resolve f.operand s).2 s t ∧ t.cpu.p = s.cpu.p)

/-- The six register transfers (R197 to R202): all but TXS set Z and N from the value moved. -/
def Obligations.Transfers : Prop :=
  ∀ s : State,
    (∃ t, exec .tax s = .next t ∧ ImpliedDone 0xAA .tax 2 s t ∧ t.cpu.x = s.cpu.a ∧
      t.cpu.a = s.cpu.a ∧ t.cpu.y = s.cpu.y ∧ t.cpu.s = s.cpu.s ∧ ZNFrom s.cpu.p t.cpu.p s.cpu.a) ∧
    (∃ t, exec .tay s = .next t ∧ ImpliedDone 0xA8 .tay 2 s t ∧ t.cpu.y = s.cpu.a ∧
      t.cpu.a = s.cpu.a ∧ t.cpu.x = s.cpu.x ∧ t.cpu.s = s.cpu.s ∧ ZNFrom s.cpu.p t.cpu.p s.cpu.a) ∧
    (∃ t, exec .txa s = .next t ∧ ImpliedDone 0x8A .txa 2 s t ∧ t.cpu.a = s.cpu.x ∧
      t.cpu.x = s.cpu.x ∧ t.cpu.y = s.cpu.y ∧ t.cpu.s = s.cpu.s ∧ ZNFrom s.cpu.p t.cpu.p s.cpu.x) ∧
    (∃ t, exec .tya s = .next t ∧ ImpliedDone 0x98 .tya 2 s t ∧ t.cpu.a = s.cpu.y ∧
      t.cpu.x = s.cpu.x ∧ t.cpu.y = s.cpu.y ∧ t.cpu.s = s.cpu.s ∧ ZNFrom s.cpu.p t.cpu.p s.cpu.y) ∧
    (∃ t, exec .tsx s = .next t ∧ ImpliedDone 0xBA .tsx 2 s t ∧ t.cpu.x = s.cpu.s ∧
      t.cpu.a = s.cpu.a ∧ t.cpu.y = s.cpu.y ∧ t.cpu.s = s.cpu.s ∧ ZNFrom s.cpu.p t.cpu.p s.cpu.s) ∧
    (∃ t, exec .txs s = .next t ∧ ImpliedDone 0x9A .txs 2 s t ∧ t.cpu.s = s.cpu.x ∧
      t.cpu.a = s.cpu.a ∧ t.cpu.x = s.cpu.x ∧ t.cpu.y = s.cpu.y ∧ t.cpu.p = s.cpu.p)

/-! ## Arithmetic and logic -/

/-- ADC (R221): the exact sum of `A`, the operand and the carry, wrapped; C is its ninth bit, V the
two's-complement overflow, Z and N from the result; D plays no part. -/
def Obligations.AddWithCarry : Prop :=
  ∀ (b : Byte) (w : Addr) (s : State), ∀ f ∈ adcForms b w, ∃ t, exec f.instr s = .next t ∧
    ReadDone f s t ∧ t.cpu.x = s.cpu.x ∧ t.cpu.y = s.cpu.y ∧
    t.cpu.a.toNat =
      (s.cpu.a.toNat + (readOperand f.operand s).1.toNat + (s.cpu.p.getLsbD 0).toNat) % 256 ∧
    CZVNFrom s.cpu.p t.cpu.p t.cpu.a
      (decide (256 ≤ s.cpu.a.toNat + (readOperand f.operand s).1.toNat + (s.cpu.p.getLsbD 0).toNat))
      (s.cpu.a.getLsbD 7 == (readOperand f.operand s).1.getLsbD 7 &&
        t.cpu.a.getLsbD 7 != s.cpu.a.getLsbD 7)

/-- SBC (R222): `A - M - (1 - C)` wrapped; C = 1 iff no borrow; V the two's-complement overflow of the
subtraction; Z and N from the result; D plays no part. -/
def Obligations.SubtractWithBorrow : Prop :=
  ∀ (b : Byte) (w : Addr) (s : State), ∀ f ∈ sbcForms b w, ∃ t, exec f.instr s = .next t ∧
    ReadDone f s t ∧ t.cpu.x = s.cpu.x ∧ t.cpu.y = s.cpu.y ∧
    (t.cpu.a.toNat : Int) =
      ((s.cpu.a.toNat : Int) - (readOperand f.operand s).1.toNat - (1 - (s.cpu.p.getLsbD 0).toNat)) % 256 ∧
    CZVNFrom s.cpu.p t.cpu.p t.cpu.a
      (decide ((readOperand f.operand s).1.toNat + (1 - (s.cpu.p.getLsbD 0).toNat) ≤ s.cpu.a.toNat))
      (s.cpu.a.getLsbD 7 != (readOperand f.operand s).1.getLsbD 7 &&
        t.cpu.a.getLsbD 7 != s.cpu.a.getLsbD 7)

/-- AND, ORA, EOR (R223, R224, R225), bit by bit, with Z and N from the result. -/
def Obligations.LogicOps : Prop :=
  ∀ (b : Byte) (w : Addr) (s : State),
    (∀ f ∈ andForms b w, ∃ t, exec f.instr s = .next t ∧ ReadDone f s t ∧ t.cpu.x = s.cpu.x ∧
      t.cpu.y = s.cpu.y ∧ ZNFrom s.cpu.p t.cpu.p t.cpu.a ∧
      ∀ i < 8, t.cpu.a.getLsbD i = (s.cpu.a.getLsbD i && (readOperand f.operand s).1.getLsbD i)) ∧
    (∀ f ∈ oraForms b w, ∃ t, exec f.instr s = .next t ∧ ReadDone f s t ∧ t.cpu.x = s.cpu.x ∧
      t.cpu.y = s.cpu.y ∧ ZNFrom s.cpu.p t.cpu.p t.cpu.a ∧
      ∀ i < 8, t.cpu.a.getLsbD i = (s.cpu.a.getLsbD i || (readOperand f.operand s).1.getLsbD i)) ∧
    (∀ f ∈ eorForms b w, ∃ t, exec f.instr s = .next t ∧ ReadDone f s t ∧ t.cpu.x = s.cpu.x ∧
      t.cpu.y = s.cpu.y ∧ ZNFrom s.cpu.p t.cpu.p t.cpu.a ∧
      ∀ i < 8, t.cpu.a.getLsbD i = (s.cpu.a.getLsbD i ^^ (readOperand f.operand s).1.getLsbD i))

/-- BIT (R226): Z from `A & M`, V and N from bits 6 and 7 of `M`, nothing else. -/
def Obligations.BitTest : Prop :=
  ∀ (b : Byte) (w : Addr) (s : State), ∀ f ∈ bitForms b w, ∃ t, exec f.instr s = .next t ∧
    ReadDone f s t ∧ t.cpu.a = s.cpu.a ∧ t.cpu.x = s.cpu.x ∧ t.cpu.y = s.cpu.y ∧
    BitTestFrom s.cpu.a (readOperand f.operand s).1 s.cpu.p t.cpu.p

/-- CMP, CPX, CPY (R227, R228, R229): C is the unsigned comparison, Z and N come from the wrapped
difference, no register changes. -/
def Obligations.Compares : Prop :=
  ∀ (b : Byte) (w : Addr) (s : State),
    (∀ f ∈ cmpForms b w, ∃ t, exec f.instr s = .next t ∧ ReadDone f s t ∧
      t.cpu.a = s.cpu.a ∧ t.cpu.x = s.cpu.x ∧ t.cpu.y = s.cpu.y ∧
      CompareFrom s.cpu.a (readOperand f.operand s).1 s.cpu.p t.cpu.p) ∧
    (∀ f ∈ cpxForms b w, ∃ t, exec f.instr s = .next t ∧ ReadDone f s t ∧
      t.cpu.a = s.cpu.a ∧ t.cpu.x = s.cpu.x ∧ t.cpu.y = s.cpu.y ∧
      CompareFrom s.cpu.x (readOperand f.operand s).1 s.cpu.p t.cpu.p) ∧
    (∀ f ∈ cpyForms b w, ∃ t, exec f.instr s = .next t ∧ ReadDone f s t ∧
      t.cpu.a = s.cpu.a ∧ t.cpu.x = s.cpu.x ∧ t.cpu.y = s.cpu.y ∧
      CompareFrom s.cpu.y (readOperand f.operand s).1 s.cpu.p t.cpu.p)

/-! ## Shifts, rotates, increments, decrements -/

/-- ASL, LSR, ROL, ROR of the accumulator (R250 to R254): result, C from the bit displaced, Z and N
from the result; rotates bring the old C in. -/
def Obligations.ShiftAccumulator : Prop :=
  ∀ s : State,
    (∃ t, exec .aslAcc s = .next t ∧ ImpliedDone 0x0A .aslAcc 2 s t ∧ t.cpu.x = s.cpu.x ∧
      t.cpu.y = s.cpu.y ∧ t.cpu.s = s.cpu.s ∧ t.cpu.a.toNat = 2 * s.cpu.a.toNat % 256 ∧
      CZNFrom s.cpu.p t.cpu.p t.cpu.a (s.cpu.a.getLsbD 7)) ∧
    (∃ t, exec .lsrAcc s = .next t ∧ ImpliedDone 0x4A .lsrAcc 2 s t ∧ t.cpu.x = s.cpu.x ∧
      t.cpu.y = s.cpu.y ∧ t.cpu.s = s.cpu.s ∧ t.cpu.a.toNat = s.cpu.a.toNat / 2 ∧
      CZNFrom s.cpu.p t.cpu.p t.cpu.a (s.cpu.a.getLsbD 0)) ∧
    (∃ t, exec .rolAcc s = .next t ∧ ImpliedDone 0x2A .rolAcc 2 s t ∧ t.cpu.x = s.cpu.x ∧
      t.cpu.y = s.cpu.y ∧ t.cpu.s = s.cpu.s ∧
      t.cpu.a.toNat = (2 * s.cpu.a.toNat + (s.cpu.p.getLsbD 0).toNat) % 256 ∧
      CZNFrom s.cpu.p t.cpu.p t.cpu.a (s.cpu.a.getLsbD 7)) ∧
    (∃ t, exec .rorAcc s = .next t ∧ ImpliedDone 0x6A .rorAcc 2 s t ∧ t.cpu.x = s.cpu.x ∧
      t.cpu.y = s.cpu.y ∧ t.cpu.s = s.cpu.s ∧
      t.cpu.a.toNat = s.cpu.a.toNat / 2 + 128 * (s.cpu.p.getLsbD 0).toNat ∧
      CZNFrom s.cpu.p t.cpu.p t.cpu.a (s.cpu.a.getLsbD 0))

/-- ASL, LSR, ROL, ROR of a RAM byte `v` (R250 to R254): the result goes back to the same cell and
nothing else in memory changes. -/
def Obligations.ShiftRam : Prop :=
  ∀ (b : Byte) (w : Addr) (s : State) (v : Byte), s.cpu.halted = false →
    (∀ f ∈ aslForms b w, isRam (resolve f.operand s).1 → s.peek (resolve f.operand s).1 = some v →
      ∃ t r, exec f.instr s = .next t ∧ RamWritten f r s t ∧ r.toNat = 2 * v.toNat % 256 ∧
        CZNFrom s.cpu.p t.cpu.p r (v.getLsbD 7)) ∧
    (∀ f ∈ lsrForms b w, isRam (resolve f.operand s).1 → s.peek (resolve f.operand s).1 = some v →
      ∃ t r, exec f.instr s = .next t ∧ RamWritten f r s t ∧ r.toNat = v.toNat / 2 ∧
        CZNFrom s.cpu.p t.cpu.p r (v.getLsbD 0)) ∧
    (∀ f ∈ rolForms b w, isRam (resolve f.operand s).1 → s.peek (resolve f.operand s).1 = some v →
      ∃ t r, exec f.instr s = .next t ∧ RamWritten f r s t ∧
        r.toNat = (2 * v.toNat + (s.cpu.p.getLsbD 0).toNat) % 256 ∧
        CZNFrom s.cpu.p t.cpu.p r (v.getLsbD 7)) ∧
    (∀ f ∈ rorForms b w, isRam (resolve f.operand s).1 → s.peek (resolve f.operand s).1 = some v →
      ∃ t r, exec f.instr s = .next t ∧ RamWritten f r s t ∧
        r.toNat = v.toNat / 2 + 128 * (s.cpu.p.getLsbD 0).toNat ∧
        CZNFrom s.cpu.p t.cpu.p r (v.getLsbD 0))

/-- INC and DEC of a RAM byte `v` (R250, R255, R256). -/
def Obligations.IncDecRam : Prop :=
  ∀ (b : Byte) (w : Addr) (s : State) (v : Byte), s.cpu.halted = false →
    (∀ f ∈ incForms b w, isRam (resolve f.operand s).1 → s.peek (resolve f.operand s).1 = some v →
      ∃ t r, exec f.instr s = .next t ∧ RamWritten f r s t ∧ r.toNat = (v.toNat + 1) % 256 ∧
        ZNFrom s.cpu.p t.cpu.p r) ∧
    (∀ f ∈ decForms b w, isRam (resolve f.operand s).1 → s.peek (resolve f.operand s).1 = some v →
      ∃ t r, exec f.instr s = .next t ∧ RamWritten f r s t ∧ r.toNat = (v.toNat + 255) % 256 ∧
        ZNFrom s.cpu.p t.cpu.p r)

/-- The read-modify-write instructions on a device, the Mapper's registers or unclaimed space, where
the write raises no halt (R250): one read, one write, the flags of the result. -/
def Obligations.RmwElsewhere : Prop :=
  ∀ (b : Byte) (w : Addr) (s : State), s.cpu.halted = false →
    (∀ g ∈ shiftTable b w, ∀ f ∈ g.1, ¬ isRam (resolve f.operand s).1 →
      (busWrite (resolve f.operand s).1 (shiftResult g.2 f.operand s).1
        (shiftBefore g.2 f.operand s)).cpu.halted = false →
      ∃ t, exec f.instr s = .next t ∧
        DeviceWritten f (shiftResult g.2 f.operand s).1 (shiftBefore g.2 f.operand s) s t ∧
        CZNFrom s.cpu.p t.cpu.p (shiftResult g.2 f.operand s).1 (shiftResult g.2 f.operand s).2) ∧
    (∀ g ∈ stepTable b w, ∀ f ∈ g.1, ¬ isRam (resolve f.operand s).1 →
      (busWrite (resolve f.operand s).1 (g.2 (readOperand f.operand s).1)
        (readOperand f.operand s).2).cpu.halted = false →
      ∃ t, exec f.instr s = .next t ∧
        DeviceWritten f (g.2 (readOperand f.operand s).1) (readOperand f.operand s).2 s t ∧
        ZNFrom s.cpu.p t.cpu.p (g.2 (readOperand f.operand s).1))

/-- A store or read-modify-write whose Mapper register write breaks the bank check (R457, R521, R522):
the halt names the address, the byte and one of the banks out of range under the registers the write
would have committed; `pc` has advanced and a shift's carry is written; no other register, no byte of
memory and no bank register changes, and `cyc` is left as it was. Which of several bad banks is named is
a free value (assumption 6); that a shift's C is written and Z, N are not, and what the Serial shift
register and write time hold, is the model's reading (assumptions 7, 8). -/
def Obligations.MapperFault : Prop :=
  ∀ (b : Byte) (w : Addr) (s : State), s.cpu.halted = false →
    (∀ g ∈ storeTable b w s, ∀ f ∈ g.1,
      (busWrite (resolve f.operand s).1 g.2 (resolve f.operand s).2).cpu.halted = true →
      ∃ t, exec f.instr s = .next t ∧ Faulted f g.2 s.cpu.p s t) ∧
    (∀ g ∈ shiftTable b w, ∀ f ∈ g.1,
      (busWrite (resolve f.operand s).1 (shiftResult g.2 f.operand s).1
        (shiftBefore g.2 f.operand s)).cpu.halted = true →
      ∃ t, exec f.instr s = .next t ∧ Faulted f (shiftResult g.2 f.operand s).1
        (withCarry (shiftResult g.2 f.operand s).2 s.cpu.p) s t) ∧
    (∀ g ∈ stepTable b w, ∀ f ∈ g.1,
      (busWrite (resolve f.operand s).1 (g.2 (readOperand f.operand s).1)
        (readOperand f.operand s).2).cpu.halted = true →
      ∃ t, exec f.instr s = .next t ∧ Faulted f (g.2 (readOperand f.operand s).1) s.cpu.p s t)

/-- INX, INY, DEX, DEY (R257 to R260). -/
def Obligations.IndexSteps : Prop :=
  ∀ s : State,
    (∃ t, exec .inx s = .next t ∧ ImpliedDone 0xE8 .inx 2 s t ∧ t.cpu.a = s.cpu.a ∧
      t.cpu.y = s.cpu.y ∧ t.cpu.s = s.cpu.s ∧ t.cpu.x.toNat = (s.cpu.x.toNat + 1) % 256 ∧
      ZNFrom s.cpu.p t.cpu.p t.cpu.x) ∧
    (∃ t, exec .iny s = .next t ∧ ImpliedDone 0xC8 .iny 2 s t ∧ t.cpu.a = s.cpu.a ∧
      t.cpu.x = s.cpu.x ∧ t.cpu.s = s.cpu.s ∧ t.cpu.y.toNat = (s.cpu.y.toNat + 1) % 256 ∧
      ZNFrom s.cpu.p t.cpu.p t.cpu.y) ∧
    (∃ t, exec .dex s = .next t ∧ ImpliedDone 0xCA .dex 2 s t ∧ t.cpu.a = s.cpu.a ∧
      t.cpu.y = s.cpu.y ∧ t.cpu.s = s.cpu.s ∧ t.cpu.x.toNat = (s.cpu.x.toNat + 255) % 256 ∧
      ZNFrom s.cpu.p t.cpu.p t.cpu.x) ∧
    (∃ t, exec .dey s = .next t ∧ ImpliedDone 0x88 .dey 2 s t ∧ t.cpu.a = s.cpu.a ∧
      t.cpu.x = s.cpu.x ∧ t.cpu.s = s.cpu.s ∧ t.cpu.y.toNat = (s.cpu.y.toNat + 255) % 256 ∧
      ZNFrom s.cpu.p t.cpu.p t.cpu.y)

/-! ## Control transfer -/

/-- JMP (R271, R169, R172): `pc` from the operand, or from the pointer, whose high byte is read from
the page of its low byte; no flag, no register, no byte of memory changes. -/
def Obligations.Jumps : Prop :=
  ∀ (w : Addr) (s : State),
    Encoded3 0x4C w (.jmpAbs w) ∧ Encoded3 0x6C w (.jmpInd w) ∧
    exec (.jmpAbs w) s = .next { s with cpu := { s.cpu with pc := w, pgx := false, cyc := 3 } } ∧
    ∃ t, exec (.jmpInd w) s = .next t ∧
      t = { (busRead (samePageNext w) (busRead w (advance 3 s)).2).2 with cpu := { s.cpu with
        pc := word16 (busRead w (advance 3 s)).1 (busRead (samePageNext w) (busRead w (advance 3 s)).2).1
        pgx := false, cyc := 5 } } ∧
      SameStore s t ∧
      (∀ lo hi : Byte, s.peek w = some lo → s.peek (samePageNext w) = some hi →
        t = { s with cpu := { s.cpu with pc := word16 lo hi, pgx := false, cyc := 5 } })

/-- JSR and RTS (R272, R273): the pushed value is the address of JSR's last byte, high byte first; RTS
pulls it, low byte first, and adds 1. -/
def Obligations.Subroutines : Prop :=
  ∀ (w : Addr) (s : State),
    (∃ t, exec (.jsr w) s = .next t ∧ Encoded3 0x20 w (.jsr w) ∧
      t.cpu = { s.cpu with pc := w, pgx := false, cyc := 6, s := s.cpu.s - 2 } ∧
      SameOutsideCpuAndWram s t ∧
      ∀ a, t.peek a =
        if sameCell (stackAddr (s.cpu.s - 1)) a then some (loByte (s.cpu.pc + 2))
        else if sameCell (stackAddr s.cpu.s) a then some (hiByte (s.cpu.pc + 2))
        else s.peek a) ∧
    (∃ t, exec .rts s = .next t ∧ Encoded1 0x60 .rts ∧
      t = { s with cpu := { s.cpu with
        pc := word16 (s.wram.read (256 + (s.cpu.s + 1).toNat)) (s.wram.read (256 + (s.cpu.s + 2).toNat)) + 1
        pgx := false, cyc := 6, s := s.cpu.s + 2 } })

/-- RTI (R274): the status byte is pulled, bit 4 cleared and bit 5 set, then `pc`, with no increment;
no byte of memory changes. -/
def Obligations.ReturnFromInterrupt : Prop :=
  ∀ s : State, Encoded1 0x40 .rti ∧
    ∃ t, exec .rti s = .next t ∧
      t = { s with cpu := { s.cpu with
        p := t.cpu.p
        pc := word16 (s.wram.read (256 + (s.cpu.s + 2).toNat)) (s.wram.read (256 + (s.cpu.s + 3).toNat))
        pgx := false, cyc := 6, s := s.cpu.s + 3 } } ∧
      ∀ i < 8, t.cpu.p.getLsbD i = if i = 5 then true else if i = 4 then false
        else (s.wram.read (256 + (s.cpu.s + 1).toNat)).getLsbD i

/-- BRK (R275): the return address `opaddr + 2` and the status byte with bits 4 and 5 set go to the
stack, `I` is set, `pc` is the vector at 0xFFFE. -/
def Obligations.BreakInterrupt : Prop :=
  ∀ s : State, Encoded1 0x00 .brk ∧
    ∃ t, exec .brk s = .next t ∧
      t.cpu = { s.cpu with
        s := s.cpu.s - 3, p := t.cpu.p, pgx := false, cyc := 7
        pc := word16 (busRead 0xFFFE s).1 (busRead 0xFFFF s).1 } ∧
      BitFrom s.cpu.p t.cpu.p 2 true ∧ SameOutsideCpuAndWram s t ∧
      StackFrame s t (s.cpu.pc + 2) (s.cpu.p ||| 0x30)

/-- The eight branches (R276 to R284): taken exactly when the condition holds; cost 2, 3 taken, 4
taken to another page; no flag, no other register, no byte of memory changes. -/
def Obligations.Branches : Prop :=
  ∀ (off : Byte) (s : State), ∀ g ∈ branchTable off s.cpu.p,
    ∃ t, exec g.instr s = .next t ∧ encode g.instr = [g.opcode, off] ∧
      t = { s with cpu := { s.cpu with pc := t.cpu.pc, pgx := false, cyc := t.cpu.cyc } } ∧
      (t.cpu.pc.toNat : Int) =
        ((s.cpu.pc.toNat : Int) + 2 + if g.taken then off.toInt else 0) % 65536 ∧
      t.cpu.cyc = 2 + if g.taken then
        1 + (if t.cpu.pc.toNat / 256 = (s.cpu.pc.toNat + 2) % 65536 / 256 then 0 else 1) else 0

/-! ## Stack, flags, NOP -/

/-- PHA and PHP (R300, R301): one byte of page 1 takes `A`, or the status byte with bits 4 and 5 set;
`S` goes down by one; `A` and `P` keep their values. -/
def Obligations.Pushes : Prop :=
  ∀ s : State,
    (∃ t, exec .pha s = .next t ∧ Encoded1 0x48 .pha ∧
      t.cpu = { s.cpu with pc := s.cpu.pc + 1, pgx := false, cyc := 3, s := s.cpu.s - 1 } ∧
      SameOutsideCpuAndWram s t ∧
      ∀ a, t.peek a = if sameCell (stackAddr s.cpu.s) a then some s.cpu.a else s.peek a) ∧
    (∃ t, exec .php s = .next t ∧ Encoded1 0x08 .php ∧
      t.cpu = { s.cpu with pc := s.cpu.pc + 1, pgx := false, cyc := 3, s := s.cpu.s - 1 } ∧
      SameOutsideCpuAndWram s t ∧
      ∀ a, t.peek a = if sameCell (stackAddr s.cpu.s) a then some (s.cpu.p ||| 0x30) else s.peek a)

/-- PLA and PLP (R302, R303): `S` goes up by one and the byte of page 1 there goes to `A` with Z and N,
or to `P` with bit 4 cleared and bit 5 set. -/
def Obligations.Pulls : Prop :=
  ∀ s : State,
    (∃ t, exec .pla s = .next t ∧ Encoded1 0x68 .pla ∧
      t = { s with cpu := { s.cpu with
        a := s.wram.read (256 + (s.cpu.s + 1).toNat)
        p := t.cpu.p, pc := s.cpu.pc + 1, pgx := false, cyc := 4, s := s.cpu.s + 1 } } ∧
      ZNFrom s.cpu.p t.cpu.p t.cpu.a) ∧
    (∃ t, exec .plp s = .next t ∧ Encoded1 0x28 .plp ∧
      t = { s with cpu := { s.cpu with
        p := t.cpu.p, pc := s.cpu.pc + 1, pgx := false, cyc := 4, s := s.cpu.s + 1 } } ∧
      ∀ i < 8, t.cpu.p.getLsbD i = if i = 5 then true else if i = 4 then false
        else (s.wram.read (256 + (s.cpu.s + 1).toNat)).getLsbD i)

/-- The seven flag instructions and NOP (R304 to R311): one bit of `P`, or none, and nothing else but
`pc` and the cost. -/
def Obligations.FlagOps : Prop :=
  ∀ s : State,
    (∀ g ∈ flagTable, ∃ t, exec g.instr s = .next t ∧ Encoded1 g.opcode g.instr ∧
      t = { s with cpu := { s.cpu with p := t.cpu.p, pc := s.cpu.pc + 1, pgx := false, cyc := 2 } } ∧
      BitFrom s.cpu.p t.cpu.p g.bit g.value) ∧
    Encoded1 0xEA .nop ∧
    exec .nop s = .next { s with cpu := { s.cpu with pc := s.cpu.pc + 1, pgx := false, cyc := 2 } }


/-! ## Reset -/

/-- The reset event (R560, R32, R52, R53, R56, R57, R58, R62, R63): every register at its value, `pc`
the vector read through the router, the memories as launched, so nothing pushed. -/
def Obligations.ResetState : Prop :=
  ∀ (c : Config) (l : Launch),
    (State.powerOn c l).cpu = {
      a := 0x00, x := 0x00, y := 0x00, s := 0xFD, p := 0x24
      pc := word16 (busRead 0xFFFC (State.powerOn c l)).1 (busRead 0xFFFD (State.powerOn c l)).1
      cyc := 7, pgx := false, halted := false, haltInfo := none, nmiPrev := false } ∧
    (State.powerOn c l).ppu = {
      v := 0, t := 0, fineX := 0, w := false, ctrl := 0x00, mask := 0x00, vblank := false
      spr0hit := false, sprovf := false, oamAddr := 0, rdbuf := 0, nmiLine := false, ntByte := 0
      atBits := 0, patLo := 0, patHi := 0, bgLo := 0, bgHi := 0, atLo := 0, atHi := 0, oam := l.oam
      sec := Vector.replicate 8 ⟨0, 0, 0, 0⟩, secCount := 0, spr0cand := false
      su := Vector.replicate 8 ⟨0, 0, 0, 0⟩, dot := 0, scanline := 0, odd := false
      palette := l.palette, fb := l.fb, a12Prev := false } ∧
    (State.powerOn c l).mapper.mirror = (if c.fourScreen then .fourScreen else
      match c.mirroring0 with | .horizontal => .horizontal | .vertical => .vertical) ∧
    (State.powerOn c l).mapper.irqPending = false ∧
    (State.powerOn c l).mapper.serial = {
      sr := 0, srCount := 0, control := 0x0C, chrBank0 := 0, chrBank1 := 0, prgBank := 0
      lastWrite := none } ∧
    (State.powerOn c l).mapper.scan = {
      bankSelect := 0, bankReg := Vector.replicate 8 0, ramProtect := 0, irqLatch := 0
      irqCounter := 0, irqReload := false, irqEnable := false } ∧
    (State.powerOn c l).cfg = c ∧ (State.powerOn c l).stepCount = 0 ∧
    (State.powerOn c l).wram = l.wram ∧ (State.powerOn c l).ntram = l.ntram ∧
    (State.powerOn c l).ntramExt = l.ntramExt ∧ (State.powerOn c l).cartRam = l.cartRam ∧
    (State.powerOn c l).patRam = l.patRam

/-- Where the vectors stand in the image at reset, in every variant (R560 with R462, R475, R490; the
positions are the spec's own inference, R563: "at image offset `size(PRG) - 4`"). -/
def Obligations.ResetVectors : Prop :=
  ∀ (c : Config) (l : Launch), c.wellFormed = true →
    (State.powerOn c l).cpu.pc =
      word16 (c.prg.read (16384 * c.prgBanks16 - 4)) (c.prg.read (16384 * c.prgBanks16 - 3)) ∧
    (State.powerOn c l).peek 0xFFFA = some (c.prg.read (16384 * c.prgBanks16 - 6)) ∧
    (State.powerOn c l).peek 0xFFFB = some (c.prg.read (16384 * c.prgBanks16 - 5)) ∧
    (State.powerOn c l).peek 0xFFFE = some (c.prg.read (16384 * c.prgBanks16 - 2)) ∧
    (State.powerOn c l).peek 0xFFFF = some (c.prg.read (16384 * c.prgBanks16 - 1))

/-- After reset: the first seven Processor steps only decrement `cyc`, while the Picture Generator
advances 21 dots; the eighth is a boundary at which no interrupt is serviced (R27, R160, R560; the
spec's own inference, R561: "The first seven calls of `CpuStep` only decrement `cyc`"). -/
def Obligations.AfterReset : Prop :=
  ∀ (c : Config) (l : Launch),
    (∀ n ≤ 7, ∃ t, stepN n (State.powerOn c l) = .next t ∧
      t.cpu = { (State.powerOn c l).cpu with cyc := 7 - n } ∧
      t.ppu.dot = 3 * n ∧ t.ppu.scanline = 0 ∧ t.stepCount = n) ∧
    ∀ t, stepN 7 (State.powerOn c l) = .next t → pollResult (countStep t) = .nothing

/-! ## The router -/

/-- Work RAM repeats every 2048 addresses up to 0x1FFF and the eight ports every 8 addresses up to
0x3FFF (R72, R73, R76): an address and its mirror read and write alike. -/
def Obligations.RouterMirrors : Prop :=
  ∀ (a b : Addr) (s : State) (d : Byte),
    (a.toNat < 0x2000 → b.toNat < 0x2000 → a.toNat % 2048 = b.toNat % 2048 →
      busRead a s = busRead b s ∧ busWrite a d s = busWrite b d s ∧
      (busRead b (busWrite a d s)).1 = d) ∧
    (0x2000 ≤ a.toNat → a.toNat < 0x4000 → 0x2000 ≤ b.toNat → b.toNat < 0x4000 →
      a.toNat % 8 = b.toNat % 8 → busRead a s = busRead b s ∧ busWrite a d s = busWrite b d s) ∧
    (0x6000 ≤ a.toNat → a.toNat < 0x8000 →
      (busRead a (busWrite a d s)).1 = d ∧
      ∀ c, c ≠ a → (busWrite a d s).peek c = s.peek c) ∧
    (0x8000 ≤ a.toNat → busRead a s = (s.cfg.prg.read (prgOffset s.cfg s.mapper (a.toNat - 0x8000)), s))

/-- Unclaimed addresses read as `OPEN_BUS` and discard writes; the write-only ports read as `OPEN_BUS`;
the status port discards writes; nothing changes (R72, R73, R78, R410, R411). In the audio/IO range
(R77, R86) a write changes no state of the block and is recorded, in order; a read changes no state of
the block and answers the environment's byte, the settled one if there is one (past the settled
answers it is a free value: assumption 4). -/
def Obligations.RouterEdges : Prop :=
  ∀ (a : Addr) (s : State) (d : Byte),
    (0x4018 ≤ a.toNat → a.toNat < 0x6000 → busRead a s = (s.cfg.openBus, s) ∧ busWrite a d s = s) ∧
    (a.toNat = 0x4014 → busRead a s = (s.cfg.openBus, s)) ∧
    (∀ p ∈ [0, 1, 3, 5, 6], isPort a p → busRead a s = (s.cfg.openBus, s)) ∧
    (isPort a 2 → busWrite a d s = s) ∧
    (isIo a → busWrite a d s = { s with events := .ioWrite a d :: s.events }) ∧
    (isIo a → ∃ b, busRead a s = (b, { s with
        env := { s.env with ioAnswers := s.env.ioAnswers.tail, ioDraws := s.env.ioDraws + 1 }
        events := .ioRead a b :: s.events }) ∧
      ∀ b' rest, s.env.ioAnswers = b' :: rest → b = b')

/-! ## The step -/

/-- A step at a boundary with no interrupt runs the decoded instruction: when the bytes at `pc` lie in
plain memory and decode to `i`, and when the fetch reads `i` from anywhere (R161, R160, R9). -/
def Obligations.StepRunsDecoded : Prop :=
  ∀ (s : State) (i : Instr), s.cpu.halted = false → s.cpu.cyc = 0 →
    pollResult (countStep s) = .nothing → i.wellFormed = true →
    (∀ bytes : List Byte, decode bytes = .ok (i, []) →
      (∀ k b, bytes[k]? = some b → s.peek (s.cpu.pc + BitVec.ofNat 16 k) = some b) →
      step s = Out.map (fun u => threeDots (countDown u)) (exec i (afterPoll (countStep s)))) ∧
    (∀ s1, fetch (afterPoll (countStep s)) = (.instr i, s1) →
      step s = Out.map (fun u => threeDots (countDown u)) (exec i s1))

/-- Counting down, and standing halted (R160, R520): `n` ticks that meet no boundary take `n` from
`cyc` and change nothing else of the Processor; a halted Processor changes in no tick. -/
def Obligations.TicksWithoutBoundary : Prop :=
  ∀ (n : Nat) (s : State),
    (s.cpu.halted = false → n ≤ s.cpu.cyc → ∃ t, stepN n s = .next t ∧
      t.cpu = { s.cpu with cyc := s.cpu.cyc - n } ∧ t.stepCount = s.stepCount + n ∧
      t.cfg = s.cfg ∧ ∀ a, t.peek a = s.peek a) ∧
    (s.cpu.halted = true → ∃ t, stepN n s = .next t ∧
      t.cpu = s.cpu ∧ t.stepCount = s.stepCount + n ∧ t.cfg = s.cfg ∧ ∀ a, t.peek a = s.peek a)

/-- An instruction or interrupt sequence of cost N occupies exactly N Processor steps: the boundary
action does all its work in the first and the next boundary comes N steps later (the consequence R160
names: "occupies exactly N consecutive calls of `CpuStep`"; R178). -/
def Obligations.CostIsSteps : Prop :=
  ∀ s u : State, s.cpu.halted = false → s.cpu.cyc = 0 → boundary (countStep s) = .next u →
    u.cpu.halted = false →
    2 ≤ u.cpu.cyc ∧ ∃ t, stepN u.cpu.cyc s = .next t ∧
      t.cpu = { u.cpu with cyc := 0 } ∧ ∀ a, t.peek a = u.peek a

/-- No access, operand or state stops the machine, and a running Processor halts in a step for one of
two causes only: an unrecognised opcode at `pc`, or a Mapper register write of a banked variant
(R132, R520, R521, R522, R523). -/
def Obligations.OnlyTwoHalts : Prop :=
  ∀ s : State, ∃ t, step s = .next t ∧ t.cfg = s.cfg ∧ t.stepCount = s.stepCount + 1 ∧
    (s.cpu.halted = true → t.cpu = s.cpu) ∧
    (s.cpu.halted = false → t.cpu.halted = true → ∃ i, t.cpu.haltInfo = some i ∧
      (i.reason = .unrecognizedOpcode ∧ i.address = s.cpu.pc ∧
          i.byte.toNat ∈ unrecognizedBytes ∧ i.bank = none ∨
       i.reason = .mapperFault ∧ 0x8000 ≤ i.address.toNat ∧ i.bank.isSome = true ∧
          s.cfg.variant ≠ .fixed))

/-- An unrecognised opcode at a boundary with no interrupt (R132, R522): the opcode byte is read, the
halt names its address and byte, `pc` and `cyc` stay, nothing else of the Processor changes and no
memory changes. -/
def Obligations.UnrecognizedHalts : Prop :=
  ∀ (s : State) (op : Byte), pollResult s = .nothing →
    (busRead s.cpu.pc (afterPoll s)).1 = op → op.toNat ∈ unrecognizedBytes →
    ∃ t, boundary s = .next t ∧
      t = { (busRead s.cpu.pc (afterPoll s)).2 with cpu := { s.cpu with
        nmiPrev := s.ppu.nmiLine, halted := true
        haltInfo := some ⟨.unrecognizedOpcode, s.cpu.pc, op, none⟩ } } ∧
      SameStore s t

/-! ## Interrupts -/

/-- The poll and the service (R525, R530 to R533, R535): a rise of the non-maskable line since the
last boundary is serviced first, through 0xFFFA; else a maskable request with I = 0, through 0xFFFE;
else the next opcode is fetched. One raise gives one interrupt: every boundary action samples the
line, no other step does, and while the sample is 1 the poll finds no edge. The audio-frame line is
the environment's input: the settled level if there is one, else a free value (assumption 5). -/
def Obligations.Interrupts : Prop :=
  (∀ s : State,
    (s.ppu.nmiLine = true ∧ s.cpu.nmiPrev = false →
      ∃ t, boundary s = .next t ∧ ServiceDone 0xFFFA s t) ∧
    (¬ (s.ppu.nmiLine = true ∧ s.cpu.nmiPrev = false) → s.cpu.p.getLsbD 2 = false →
      (s.mapper.irqPending || apuLevel s) = true →
      ∃ t, boundary s = .next t ∧ ServiceDone 0xFFFE s t) ∧
    (¬ (s.ppu.nmiLine = true ∧ s.cpu.nmiPrev = false) →
      s.cpu.p.getLsbD 2 = true ∨ (s.mapper.irqPending || apuLevel s) = false →
      boundary s = fetchAndExec (afterPoll s)) ∧
    (∀ b rest, s.env.apuLevels = b :: rest → apuLevel s = b)) ∧
  (∀ s t : State, boundary s = .next t → t.cpu.nmiPrev = s.ppu.nmiLine) ∧
  (∀ s t : State, s.cpu.halted = false → s.cpu.cyc ≠ 0 → step s = .next t →
    t.cpu.nmiPrev = s.cpu.nmiPrev) ∧
  (∀ s : State, s.cpu.nmiPrev = true → pollResult s ≠ .nmi)

/-- A handler consisting of RTI undoes the entry (R274, R535; the general form of the spec's worked
example R541: "A handler consisting of RTI"), and RTS undoes JSR (R272, R273), for every `S`: `pc`,
`S`, `A`, `X`, `Y` come back, and `P` with bit 5 set and bit 4 clear. -/
def Obligations.ReturnsUndoCalls : Prop :=
  ∀ (s : State),
    (∀ vec ∈ [nmiVector, irqVector], ∃ t, exec .rti (service vec s) = .next t ∧
      t.cpu = { s.cpu with p := t.cpu.p, pgx := false, cyc := 6 } ∧
      (∀ i < 8, t.cpu.p.getLsbD i = if i = 5 then true else if i = 4 then false
        else s.cpu.p.getLsbD i) ∧
      (StatusOk s → t.cpu.p = s.cpu.p) ∧
      StackFrame s t s.cpu.pc ((s.cpu.p ||| 0x20) &&& 0xEF)) ∧
    (∀ w : Addr, ∃ u t, exec (.jsr w) s = .next u ∧ exec .rts u = .next t ∧
      t.cpu = { s.cpu with pc := s.cpu.pc + 3, pgx := false, cyc := 6 })

/-! ## The Picture Generator -/

/-- One dot: what it leaves alone, and the counters (R321, R322): 341 dots on 262 lines, the frame
parity flipped at the wrap, one dot skipped then when the parity is now 1 and rendering is enabled. -/
def Obligations.CounterAdvance : Prop :=
  ∀ s : State, DotFrame s (ppuStep s) ∧
    (s.ppu.dot < 340 → (ppuStep s).ppu.dot = s.ppu.dot + 1 ∧
      (ppuStep s).ppu.scanline = s.ppu.scanline ∧ (ppuStep s).ppu.odd = s.ppu.odd) ∧
    (s.ppu.dot = 340 → s.ppu.scanline ≠ 260 → (ppuStep s).ppu.dot = 0 ∧
      (ppuStep s).ppu.scanline = s.ppu.scanline + 1 ∧ (ppuStep s).ppu.odd = s.ppu.odd) ∧
    (s.ppu.dot = 340 → s.ppu.scanline = 260 →
      (ppuStep s).ppu.scanline = -1 ∧ (ppuStep s).ppu.odd = !s.ppu.odd ∧
      (ppuStep s).ppu.dot = if s.ppu.odd = false ∧
        (s.ppu.mask.getLsbD 3 = true ∨ s.ppu.mask.getLsbD 4 = true) then 1 else 0)

/-- The vertical-blank flag, the interrupt line and the frame handoff, dot by dot (R323 a, R325, R326,
R330, R331): flag and line are set at (241, 1), the line if `ctrl[7]` is 1, and cleared at (-1, 1); the
frame is handed over at (241, 1); at every other dot all three are as they were. The two sprite flags
are cleared at (-1, 1) (SpriteEvaluation and PixelWritten say where they are set). Lines 240 to 260 are
idle but for that one event. -/
def Obligations.FlagEvents : Prop :=
  ∀ s : State,
    (ppuStep s).ppu.vblank = (if s.ppu.scanline = -1 ∧ s.ppu.dot = 1 then false
      else if s.ppu.scanline = 241 ∧ s.ppu.dot = 1 then true else s.ppu.vblank) ∧
    (ppuStep s).ppu.nmiLine = (if s.ppu.scanline = -1 ∧ s.ppu.dot = 1 then false
      else if s.ppu.scanline = 241 ∧ s.ppu.dot = 1 ∧ s.ppu.ctrl.getLsbD 7 = true then true
      else s.ppu.nmiLine) ∧
    (ppuStep s).events = (if s.ppu.scanline = 241 ∧ s.ppu.dot = 1 then
      .frameReady s.ppu.fb :: s.events else s.events) ∧
    (s.ppu.scanline = -1 → s.ppu.dot = 1 →
      (ppuStep s).ppu.spr0hit = false ∧ (ppuStep s).ppu.sprovf = false) ∧
    (240 ≤ s.ppu.scanline → ¬ (s.ppu.scanline = 241 ∧ s.ppu.dot = 1) →
      ppuStep s = { s with ppu := { s.ppu with
        dot := (ppuStep s).ppu.dot, scanline := (ppuStep s).ppu.scanline, odd := (ppuStep s).ppu.odd } })

/-- The frame and the vertical-blank flag, over the dots alone (R321, R323, R326): from one (241, 1) to
the next are 89342 dots, or 89341 where the wrap skips one (the spec's own inference, R332: "or 89341
when the wrap of rule R321 skipped a dot"); the flag is 1 for the 6820 dots up to (-1, 1) (R330), which
are 6819 with the skip (the model's reading, assumption 15), and 0 for the rest; the parity flips. -/
def Obligations.FrameLaw : Prop :=
  ∀ (s : State) (skip : Nat), s.ppu.scanline = 241 → s.ppu.dot = 1 →
    skip = (if s.ppu.odd = false ∧ (s.ppu.mask.getLsbD 3 = true ∨ s.ppu.mask.getLsbD 4 = true)
      then 1 else 0) →
    (iterate ppuStep (89342 - skip) s).ppu.scanline = 241 ∧
    (iterate ppuStep (89342 - skip) s).ppu.dot = 1 ∧
    (iterate ppuStep (89342 - skip) s).ppu.odd = !s.ppu.odd ∧
    (∀ n, 0 < n → n < 89342 - skip → ¬ ((iterate ppuStep n s).ppu.scanline = 241 ∧
      (iterate ppuStep n s).ppu.dot = 1)) ∧
    (∀ n, 1 ≤ n → n ≤ 6820 - skip → (iterate ppuStep n s).ppu.vblank = true) ∧
    (∀ n, 6820 - skip < n → n ≤ 89342 - skip → (iterate ppuStep n s).ppu.vblank = false)

/-- The scroll address after each dot, field by field (R333 to R336, R320, R327): the horizontal step
at the end of a group, then the vertical step at dot 256 of a visible line, the horizontal copy at dot
257, the vertical copy on the pre-render line; at no other dot does it move. -/
def Obligations.ScrollAddress : Prop :=
  ∀ s : State,
    (rendersLine s → fetchDot s.ppu.dot → s.ppu.dot % 8 = 0 → s.ppu.dot ≠ 256 ∨ s.ppu.scanline = -1 →
      HorizontalStep s.ppu.v (ppuStep s).ppu.v) ∧
    (rendersLine s → s.ppu.dot = 256 → 0 ≤ s.ppu.scanline →
      ∃ u, HorizontalStep s.ppu.v u ∧ VerticalStep u (ppuStep s).ppu.v) ∧
    (rendersLine s → s.ppu.dot = 257 → ScrollFrom s.ppu.t s.ppu.v (ppuStep s).ppu.v) ∧
    (rendersLine s → s.ppu.scanline = -1 → 280 ≤ s.ppu.dot → s.ppu.dot ≤ 304 →
      ScrollFrom s.ppu.v s.ppu.t (ppuStep s).ppu.v) ∧
    (¬ rendersLine s ∨ (¬ (fetchDot s.ppu.dot ∧ s.ppu.dot % 8 = 0) ∧ s.ppu.dot ≠ 257 ∧
        ¬ (s.ppu.scanline = -1 ∧ 280 ≤ s.ppu.dot ∧ s.ppu.dot ≤ 304)) →
      (ppuStep s).ppu.v = s.ppu.v)

/-- The background pipeline (R360 to R366): on a dot of the fetch window the four registers shift, the
dot's phase fetches or loads; on every other dot nothing of it changes. -/
def Obligations.BackgroundPipeline : Prop :=
  ∀ s : State,
    (rendersLine s → fetchDot s.ppu.dot →
      BackgroundShifted s (ppuStep s) ∧ BackgroundLatched s (ppuStep s)) ∧
    (¬ rendersLine s ∨ ¬ fetchDot s.ppu.dot → BackgroundKept s (ppuStep s))

/-- Sprite evaluation (R370, R371): at dot 256 the first eight entries whose span covers the next
line are copied in order, a ninth sets the overflow flag, entry 0 sets the candidate flag; the other
slots keep stale bytes (the model's choice, which the spec permits: assumption 19); on no other dot does
any of it change. Line 0 has no sprite, and an entry whose first byte is 239 or more covers no displayed
line. -/
def Obligations.SpriteEvaluation : Prop :=
  ∀ s : State,
    (rendersLine s → s.ppu.dot = 256 →
      (ppuStep s).ppu.secCount = min 8 (nextSprites s).length ∧
      (∀ k : Fin 8, (ppuStep s).ppu.sec[k] = match (nextSprites s)[k.val]? with
        | some n => objectEntry s n
        | none => s.ppu.sec[k]) ∧
      (ppuStep s).ppu.sprovf = (s.ppu.sprovf || decide (8 < (nextSprites s).length)) ∧
      (ppuStep s).ppu.spr0cand = decide (0 ∈ nextSprites s)) ∧
    (¬ rendersLine s ∨ s.ppu.dot ≠ 256 →
      (ppuStep s).ppu.secCount = s.ppu.secCount ∧ (ppuStep s).ppu.sec = s.ppu.sec ∧
      (ppuStep s).ppu.spr0cand = s.ppu.spr0cand ∧
      (¬ (s.ppu.scanline = -1 ∧ s.ppu.dot = 1) → (ppuStep s).ppu.sprovf = s.ppu.sprovf)) ∧
    (s.ppu.scanline = -1 → nextSprites s = []) ∧
    (∀ n ∈ nextSprites s, s.ppu.scanline ≤ 238 → (s.ppu.oam.read (4 * n)).toNat < 239)

/-- Sprite fetch (R375 to R378): at dot 257 each unit takes its selected entry's pattern row, flipped
and mirrored as its attributes ask, or becomes transparent. A row outside 0..h-1 is reduced `mod h`
whatever brought it there; that this holds where `ctrl[5]` did not change between dots 256 and 257 is
the model's choice (assumption 20). -/
def Obligations.SpriteFetch : Prop :=
  ∀ s : State, rendersLine s → s.ppu.dot = 257 → ∀ i : Fin 8,
    (i.val < s.ppu.secCount → UnitLoaded s s.ppu.sec[i] (ppuStep s).ppu.su[i]) ∧
    (s.ppu.secCount ≤ i.val → (ppuStep s).ppu.su[i] = ⟨0, 0, 0, 0⟩)

/-- Compositing (R390 to R397): the pixel of each visible dot, the sprite-zero hit and the sprite
units; every other pixel, and on other dots the hit flag and the units, stay as they are. -/
def Obligations.PixelWritten : Prop :=
  ∀ s : State,
    (pixelDot s →
      ((s.ppu.mask.getLsbD 3 = true ∨ s.ppu.mask.getLsbD 4 = true) →
        (ppuStep s).ppu.pixel s.ppu.scanline.toNat (s.ppu.dot - 1) =
          s.ppu.palette[paletteCell s (s.ppu.dot - 1)]?.getD 0 ∧
        (ppuStep s).ppu.spr0hit = (s.ppu.spr0hit || zeroHit s (s.ppu.dot - 1)) ∧
        ∀ i : Fin 8, UnitTicked s.ppu.su[i] (ppuStep s).ppu.su[i]) ∧
      (s.ppu.mask.getLsbD 3 = false → s.ppu.mask.getLsbD 4 = false →
        (ppuStep s).ppu.pixel s.ppu.scanline.toNat (s.ppu.dot - 1) = s.ppu.palette[0] ∧
        (ppuStep s).ppu.spr0hit = s.ppu.spr0hit ∧ (ppuStep s).ppu.su = s.ppu.su) ∧
      ∀ y x : Nat, y ≠ s.ppu.scanline.toNat ∨ x ≠ s.ppu.dot - 1 →
        (ppuStep s).ppu.pixel y x = s.ppu.pixel y x) ∧
    (¬ pixelDot s → (ppuStep s).ppu.fb = s.ppu.fb ∧
      (¬ (s.ppu.scanline = -1 ∧ s.ppu.dot = 1) → (ppuStep s).ppu.spr0hit = s.ppu.spr0hit) ∧
      (¬ rendersLine s ∨ s.ppu.dot ≠ 257 → (ppuStep s).ppu.su = s.ppu.su))

/-! ## The Mapper's counter -/

/-- The edge detector (R500, R455): every dot advances the Mapper's counter once per rise of address
bit 12 over the pattern reads it makes and does nothing else to the Mapper; and, with background
patterns in the low table and 8-row sprites in the high one, exactly once a line (the spec's own
inference, R501: "the counter advances exactly once per scanline, at dot 257"). Bit 12 of a sprite's
reads rests on its row being inside the sprite's height (R375, and assumption 20). -/
def Obligations.ScanlineClock : Prop :=
  (∀ s : State,
    (ppuStep s).mapper = iterate (advanceCounter s.cfg) (rises s.ppu.a12Prev (patternBits s)) s.mapper ∧
    (ppuStep s).ppu.a12Prev = (patternBits s).getLast?.getD s.ppu.a12Prev) ∧
  (∀ s : State, (s.ppu.mask.getLsbD 3 = true ∨ s.ppu.mask.getLsbD 4 = true) →
    s.ppu.ctrl.getLsbD 4 = false → s.ppu.ctrl.getLsbD 3 = true → s.ppu.ctrl.getLsbD 5 = false →
    -1 ≤ s.ppu.scanline → s.ppu.scanline ≤ 238 → s.ppu.dot = 258 → s.ppu.a12Prev = true →
    (iterate ppuStep 341 s).ppu.scanline = s.ppu.scanline + 1 ∧
    (iterate ppuStep 341 s).ppu.dot = 258 ∧ (iterate ppuStep 341 s).ppu.a12Prev = true ∧
    (iterate ppuStep 341 s).mapper = advanceCounter s.cfg s.mapper)

/-- The scanline counter (R455, R492): one advance, and the period of N + 1 advances after a reload
from a latch of N; once asserted the line stays (the spec's own inference, R493: "and then every N+1
advances"); the other variants do nothing. -/
def Obligations.CounterPeriod : Prop :=
  ∀ (c : Config) (m : Mapper),
    (c.variant ≠ .scanline → advanceCounter c m = m) ∧
    (c.variant = .scanline → m.scan.irqCounter ≠ 0 → m.scan.irqReload = false →
      (advanceCounter c m).scan.irqCounter.toNat = m.scan.irqCounter.toNat - 1 ∧
      (advanceCounter c m).irqPending =
        (m.irqPending || (decide (m.scan.irqCounter = 1) && m.scan.irqEnable))) ∧
    (c.variant = .scanline → (m.scan.irqCounter = 0 ∨ m.scan.irqReload = true) → ∀ k : Nat,
      (iterate (advanceCounter c) (k + 1) m).scan.irqCounter.toNat =
        m.scan.irqLatch.toNat - k % (m.scan.irqLatch.toNat + 1) ∧
      (iterate (advanceCounter c) (k + 1) m).scan.irqReload = false ∧
      (iterate (advanceCounter c) (k + 1) m).irqPending =
        (m.irqPending || (m.scan.irqEnable && decide (m.scan.irqLatch.toNat ≤ k))))

/-! ## The ports -/

/-- The control, mask, status, object-table, scroll and address ports (R410 to R413, R416, R417, R420
to R423, R427), at each of their mirrors. -/
def Obligations.Ports : Prop :=
  ∀ (a : Addr) (d : Byte) (s : State),
    (isPort a 0 → ∃ t, busWrite a d s = { s with ppu := { s.ppu with ctrl := d, t := t } } ∧
      t.toNat / 1024 % 4 = d.toNat % 4 ∧ t.toNat % 1024 = s.ppu.t.toNat % 1024 ∧
      t.toNat / 4096 = s.ppu.t.toNat / 4096) ∧
    (isPort a 1 → busWrite a d s = { s with ppu := { s.ppu with mask := d } }) ∧
    (isPort a 2 → (busRead a s).2 = { s with ppu := { s.ppu with vblank := false, w := false } } ∧
      (busRead a s).1.toNat =
        128 * s.ppu.vblank.toNat + 64 * s.ppu.spr0hit.toNat + 32 * s.ppu.sprovf.toNat) ∧
    (isPort a 3 → busWrite a d s = { s with ppu := { s.ppu with oamAddr := d } }) ∧
    (isPort a 4 → busRead a s = (s.ppu.oam.read s.ppu.oamAddr.toNat, s) ∧
      busWrite a d s = { s with ppu := { s.ppu with
        oam := (busWrite a d s).ppu.oam, oamAddr := s.ppu.oamAddr + 1 } } ∧
      ∀ k, (busWrite a d s).ppu.oam.read k =
        if k = s.ppu.oamAddr.toNat then d else s.ppu.oam.read k) ∧
    (isPort a 5 → s.ppu.w = false → ∃ t, busWrite a d s = { s with ppu := { s.ppu with
        t := t, fineX := BitVec.ofNat 3 d.toNat, w := true } } ∧
      coarseX t = d.toNat / 8 ∧ t.toNat / 32 = s.ppu.t.toNat / 32) ∧
    (isPort a 5 → s.ppu.w = true → ∃ t, busWrite a d s = { s with ppu := { s.ppu with
        t := t, w := false } } ∧
      fineY t = d.toNat % 8 ∧ coarseY t = d.toNat / 8 ∧ coarseX t = coarseX s.ppu.t ∧
      nameX t = nameX s.ppu.t ∧ nameY t = nameY s.ppu.t) ∧
    (isPort a 6 → s.ppu.w = false → ∃ t, busWrite a d s = { s with ppu := { s.ppu with
        t := t, w := true } } ∧ t.toNat = 256 * (d.toNat % 64) + s.ppu.t.toNat % 256) ∧
    (isPort a 6 → s.ppu.w = true → ∃ t, busWrite a d s = { s with ppu := { s.ppu with
        t := t, v := t, w := false } } ∧ t.toNat = s.ppu.t.toNat / 256 * 256 + d.toNat)

/-- The data port and the picture-generator memory behind it (R71, R95 to R98, R424 to R426): the
buffered read, the palette read at once, the write to the cell the mirroring names, the increment. -/
def Obligations.DataPort : Prop :=
  ∀ (a : Addr) (d : Byte) (s : State) (p : PAddr), isPort a 7 → p.toNat = s.ppu.v.toNat % 16384 →
    (p.toNat < 0x3F00 → busRead a s = (s.ppu.rdbuf, { s with ppu := { s.ppu with
      rdbuf := ppuRead s p, v := nextData s } })) ∧
    (0x3F00 ≤ p.toNat → busRead a s = (ppuRead s p, { s with ppu := { s.ppu with
      rdbuf := ppuRead s (p - 0x1000), v := nextData s } })) ∧
    (p.toNat < 0x2000 → 0 < s.cfg.chrBanks8 →
      ppuRead s p = s.cfg.chr.read (chrOffset s.cfg s.mapper p.toNat) ∧
      busWrite a d s = { s with ppu := { s.ppu with v := nextData s } }) ∧
    (p.toNat < 0x2000 → s.cfg.chrBanks8 = 0 →
      ppuRead s p = s.patRam.read p.toNat ∧
      busWrite a d s = { s with
        patRam := s.patRam.write p.toNat d, ppu := { s.ppu with v := nextData s } }) ∧
    (0x2000 ≤ p.toNat → p.toNat < 0x3F00 → nametableAt s p < 2 →
      ppuRead s p = s.ntram.read (1024 * nametableAt s p + p.toNat % 1024) ∧
      busWrite a d s = { s with
        ntram := s.ntram.write (1024 * nametableAt s p + p.toNat % 1024) d
        ppu := { s.ppu with v := nextData s } }) ∧
    (0x2000 ≤ p.toNat → p.toNat < 0x3F00 → 2 ≤ nametableAt s p →
      ppuRead s p = s.ntramExt.read (1024 * (nametableAt s p - 2) + p.toNat % 1024) ∧
      busWrite a d s = { s with
        ntramExt := s.ntramExt.write (1024 * (nametableAt s p - 2) + p.toNat % 1024) d
        ppu := { s.ppu with v := nextData s } }) ∧
    (0x3F00 ≤ p.toNat →
      (ppuRead s p).toNat = (s.ppu.palette[paletteCellAt p]?.getD 0).toNat ∧
      ∃ q, busWrite a d s = { s with ppu := { s.ppu with v := nextData s, palette := q } } ∧
        ∀ i : Fin 32, q[i].toNat = if i.val = paletteCellAt p then d.toNat % 64
          else s.ppu.palette[i].toNat)

/-- Object DMA (R430): 256 bus reads of the page in order, with their side effects, each byte stored in
the object table from `oam_addr` on; from a page of plain memory nothing else changes. From any page,
`oam_addr` is as before, and so is the Processor (the spec's own inference, R431: "registers and flags
are not changed by the copy"). -/
def Obligations.ObjectDma : Prop :=
  ∀ (page : Byte) (s : State),
    (∃ u : Nat → State, u 0 = s ∧ u 256 = busWrite 0x4014 page s ∧ ∀ i < 256,
      let r := busRead (BitVec.ofNat 16 (256 * page.toNat + i)) (u i)
      u (i + 1) = { r.2 with ppu := { r.2.ppu with
        oam := r.2.ppu.oam.write ((s.ppu.oamAddr.toNat + i) % 256) r.1 } }) ∧
    (busWrite 0x4014 page s).cpu = s.cpu ∧
    (busWrite 0x4014 page s).ppu.oamAddr = s.ppu.oamAddr ∧
    (page.toNat < 0x20 ∨ 0x60 ≤ page.toNat →
      busWrite 0x4014 page s = { s with ppu := { s.ppu with oam := (busWrite 0x4014 page s).ppu.oam } } ∧
      ∀ i < 256, s.peek (BitVec.ofNat 16 (256 * page.toNat + i)) =
        some ((busWrite 0x4014 page s).ppu.oam.read ((s.ppu.oamAddr.toNat + i) % 256)))

/-! ## The Mapper's registers -/

/-- The Serial variant's register writes (R470 to R474, R457): the ignored write, the reset write, the
shift write, and the fifth of five shift writes, which puts the five low bits, first write lowest, into
the register its own address names. The reset write and the fifth write commit exactly when no region
of the windows is then out of range, and else halt; a reset write never fails where the banks were in
range. That a reset write whose check fails commits nothing but the write time is the model's reading
(assumption 8). -/
def Obligations.SerialWrites : Prop :=
  ∀ s : State, s.cfg.variant = .serial → s.cpu.halted = false →
    (∀ (a : Addr) (d : Byte), 0x8000 ≤ a.toNat → tooSoon s →
      busWrite a d s = { s with mapper := { s.mapper with serial := { s.mapper.serial with
        lastWrite := some s.stepCount } } }) ∧
    (∀ (a : Addr) (d : Byte), 0x8000 ≤ a.toNat → ¬ tooSoon s → d.getLsbD 7 = true →
      (BanksOk s → (busWrite a d s).cpu.halted = false) ∧
      Committed a d
        { s.mapper with serial := { s.mapper.serial with
          sr := 0, srCount := 0, control := s.mapper.serial.control ||| 0x0C
          lastWrite := some s.stepCount } }
        { s with mapper := { s.mapper with serial := { s.mapper.serial with
          lastWrite := some s.stepCount } } }
        (busWrite a d s)) ∧
    (∀ (a : Addr) (d : Byte), 0x8000 ≤ a.toNat → ¬ tooSoon s → d.getLsbD 7 = false →
      s.mapper.serial.srCount < 4 → ∃ r : BitVec 5,
        r.toNat = s.mapper.serial.sr.toNat / 2 + 16 * (d.getLsbD 0).toNat ∧
        busWrite a d s = { s with mapper := { s.mapper with serial := { s.mapper.serial with
          sr := r, srCount := s.mapper.serial.srCount + 1, lastWrite := some s.stepCount } } }) ∧
    (∀ (n1 n2 n3 n4 n5 : Nat) (a1 a2 a3 a4 a5 : Addr) (d1 d2 d3 d4 d5 : Byte) (val : Nat) (m : Mapper),
      s.mapper.serial.srCount = 0 → ¬ tooSoon { s with stepCount := n1 } →
      n1 + s.cfg.serialMinSpacing ≤ n2 → n2 + s.cfg.serialMinSpacing ≤ n3 →
      n3 + s.cfg.serialMinSpacing ≤ n4 → n4 + s.cfg.serialMinSpacing ≤ n5 →
      (∀ a ∈ [a1, a2, a3, a4, a5], 0x8000 ≤ a.toNat) →
      (∀ d ∈ [d1, d2, d3, d4, d5], d.getLsbD 7 = false) →
      val = (d1.getLsbD 0).toNat + 2 * (d2.getLsbD 0).toNat + 4 * (d3.getLsbD 0).toNat +
        8 * (d4.getLsbD 0).toNat + 16 * (d5.getLsbD 0).toNat →
      m = { s.mapper with serial := { s.mapper.serial with
        sr := 0, srCount := 0, lastWrite := some n5 } } →
      Committed a5 d5 (serialTarget s.cfg a5 (BitVec.ofNat 5 val) m)
        { s with stepCount := n5, mapper := m }
        ([(n1, a1, d1), (n2, a2, d2), (n3, a3, d3), (n4, a4, d4), (n5, a5, d5)].foldl storeAt s))

/-- The Scanline variant's eight registers (R480 to R486), by address range and address bit 0; and the
Fixed variant discards the write (R461). -/
def Obligations.ScanlineRegisters : Prop :=
  ∀ (a : Addr) (d : Byte) (s : State), 0x8000 ≤ a.toNat →
    (s.cfg.variant = .fixed → busWrite a d s = s) ∧
    (s.cfg.variant = .scanline →
      (a.toNat < 0xA000 → a.toNat % 2 = 0 →
        Committed a d { s.mapper with scan := { s.mapper.scan with bankSelect := d } } s (busWrite a d s)) ∧
      (a.toNat < 0xA000 → a.toNat % 2 = 1 → ∃ v : Vector Byte 8,
        (∀ i : Fin 8, v[i] = if i.val = s.mapper.scan.bankSelect.toNat % 8 then d
          else s.mapper.scan.bankReg[i]) ∧
        Committed a d { s.mapper with scan := { s.mapper.scan with bankReg := v } } s (busWrite a d s)) ∧
      (0xA000 ≤ a.toNat → a.toNat < 0xC000 → a.toNat % 2 = 0 →
        busWrite a d s = { s with mapper := { s.mapper with
          mirror := (if s.cfg.fourScreen then s.mapper.mirror
            else if d.getLsbD 0 = true then Mirror.horizontal else Mirror.vertical) } }) ∧
      (0xA000 ≤ a.toNat → a.toNat < 0xC000 → a.toNat % 2 = 1 →
        busWrite a d s = { s with mapper := { s.mapper with scan := { s.mapper.scan with
          ramProtect := d } } }) ∧
      (0xC000 ≤ a.toNat → a.toNat < 0xE000 → a.toNat % 2 = 0 →
        busWrite a d s = { s with mapper := { s.mapper with scan := { s.mapper.scan with
          irqLatch := d } } }) ∧
      (0xC000 ≤ a.toNat → a.toNat < 0xE000 → a.toNat % 2 = 1 →
        busWrite a d s = { s with mapper := { s.mapper with scan := { s.mapper.scan with
          irqReload := true } } }) ∧
      (0xE000 ≤ a.toNat → a.toNat % 2 = 0 →
        busWrite a d s = { s with mapper := { s.mapper with
          irqPending := false, scan := { s.mapper.scan with irqEnable := false } } }) ∧
      (0xE000 ≤ a.toNat → a.toNat % 2 = 1 →
        busWrite a d s = { s with mapper := { s.mapper with scan := { s.mapper.scan with
          irqEnable := true } } }))

/-- Bank reduction (R456) and the mapped windows (R462, R475, R476, R490, R491): the masked bank number
where the image has it, and none where it has not; every switchable slot shows the reduced bank its
registers name; the fixed banks are where the rules put them; a write is refused for exactly the bank
numbers of switchable slots that do not reduce (R457); and while there is none, every offset of the
windows lies inside the image. -/
def Obligations.BankWindows : Prop :=
  (∀ b n k : Nat, 1 ≤ n → n ≤ 2 ^ k → (∀ j < k, 2 ^ j < n) →
    reduce b n = if b % 2 ^ k < n then some (b % 2 ^ k) else none) ∧
  (∀ b n i : Nat, 1 ≤ n → reduce b n = some i → i < n) ∧
  (∀ b k : Nat, reduce b (2 ^ k) = some (b % 2 ^ k)) ∧
  (∀ (c : Config) (m : Mapper), ∀ r ∈ switchable c m, ∀ i, reduce r.bank r.count = some i →
    ∀ o < r.size, (if r.pattern then chrOffset c m (r.size * r.index + o)
      else prgOffset c m (r.size * r.index + o)) = r.size * i + o) ∧
  (∀ (c : Config) (m : Mapper) (n : Nat),
    n ∈ failingBanks c m ↔ ∃ r ∈ switchable c m, r.bank = n ∧ reduce r.bank r.count = none) ∧
  (∀ (c : Config) (m : Mapper), c.wellFormed = true → failingBanks c m = [] →
    (∀ i < 32768, prgOffset c m i < 16384 * c.prgBanks16 ∧ prgOffset c m i % 8192 = i % 8192) ∧
    (0 < c.chrBanks8 → ∀ j < 8192,
      chrOffset c m j < 8192 * c.chrBanks8 ∧ chrOffset c m j % 1024 = j % 1024)) ∧
  (∀ (c : Config) (m : Mapper) (o : Nat), 1 ≤ c.prgBanks16 → o < 16384 →
    (c.variant = .fixed → c.prgBanks16 = 1 → prgOffset c m o = o ∧ prgOffset c m (16384 + o) = o) ∧
    (c.variant = .fixed → c.prgBanks16 = 2 → prgOffset c m o = o ∧ prgOffset c m (16384 + o) = 16384 + o) ∧
    (c.variant = .fixed → o < 8192 → chrOffset c m o = o) ∧
    (c.variant = .serial → m.serial.control.toNat / 4 % 4 = 2 → prgOffset c m o = o) ∧
    (c.variant = .serial → m.serial.control.toNat / 4 % 4 = 3 →
      prgOffset c m (16384 + o) = 16384 * (c.prgBanks16 - 1) + o) ∧
    (c.variant = .scanline → o < 8192 →
      prgOffset c m (24576 + o) = 8192 * (2 * c.prgBanks16 - 1) + o ∧
      prgOffset c m ((if m.scan.bankSelect.getLsbD 6 then 0 else 16384) + o) =
        8192 * (2 * c.prgBanks16 - 2) + o))

/-! ## Invariants -/

/-- Every memory keeps its canonical form and its size (R7). -/
def Obligations.MemoriesInvariant : Prop :=
  ∀ s t : State, MemoriesOk s → step s = .next t → MemoriesOk t

/-- Bit 5 of `P` stays 1 and bit 4 stays 0, the halted flag and its record agree, and `cyc` stays at
most 7 + OAM_DMA_STALL (R24, R27, R29); the picture counters stay on the 341 by 262 grid and at most
eight sprites are selected (R46, R48, R322). -/
def Obligations.RegistersInvariant : Prop :=
  ∀ s t : State, step s = .next t →
    (StatusOk s → StatusOk t) ∧ (HaltOk s → HaltOk t) ∧ (CycOk s → CycOk t) ∧
    (GridOk s → GridOk t) ∧ (SpritesOk s → SpritesOk t)

/-- The Mapper's line stays low in the unbanked variants, four-screen mirroring stays, the shift
register never holds five bits, and no region of the windows comes to lie outside the image (R53,
R56, R456, R457). -/
def Obligations.MapperInvariant : Prop :=
  ∀ s t : State, step s = .next t → (MapperOk s → MapperOk t) ∧ (BanksOk s → BanksOk t)

/-- The invariants hold right after reset, for every well-formed image and launch and for the model's
own reset state. -/
def Obligations.InvariantsAtReset : Prop :=
  (∀ (c : Config) (l : Launch), c.wellFormed = true → l.Ok →
    MemoriesOk (State.powerOn c l) ∧ StatusOk (State.powerOn c l) ∧ HaltOk (State.powerOn c l) ∧
    CycOk (State.powerOn c l) ∧ GridOk (State.powerOn c l) ∧ SpritesOk (State.powerOn c l) ∧
    MapperOk (State.powerOn c l) ∧ BanksOk (State.powerOn c l)) ∧
  MemoriesOk State.reset ∧ StatusOk State.reset ∧ HaltOk State.reset ∧ CycOk State.reset ∧
  GridOk State.reset ∧ SpritesOk State.reset ∧ MapperOk State.reset ∧ BanksOk State.reset
end

