-- ==== Sys2Proof/Laws/Bits.lean ====
section
/-! SUPPORT. The byte-order helpers in whole numbers, and the page comparison. -/

namespace Sys2Proof.Machine

theorem word16_toNat (lo hi : Byte) : (word16 lo hi).toNat = lo.toNat + 256 * hi.toNat := by
  rw [word16, BitVec.toNat_append, ← Nat.shiftLeft_add_eq_or_of_lt lo.isLt, Nat.shiftLeft_eq]
  omega

theorem loByte_toNat (a : Addr) : (loByte a).toNat = a.toNat % 256 := by
  simp [loByte]

theorem hiByte_toNat (a : Addr) : (hiByte a).toNat = a.toNat / 256 := by
  have := a.isLt
  simp [hiByte, Nat.shiftRight_eq_div_pow]; omega

/-- Splitting an address into bytes and putting it together gives it back. -/
@[simp] theorem word16_loByte_hiByte (a : Addr) : word16 (loByte a) (hiByte a) = a := by
  apply BitVec.eq_of_toNat_eq
  rw [word16_toNat, loByte_toNat, hiByte_toNat]
  omega

@[simp] theorem loByte_word16 (lo hi : Byte) : loByte (word16 lo hi) = lo := by
  apply BitVec.eq_of_toNat_eq
  have := lo.isLt
  rw [loByte_toNat, word16_toNat]
  omega

@[simp] theorem hiByte_word16 (lo hi : Byte) : hiByte (word16 lo hi) = hi := by
  apply BitVec.eq_of_toNat_eq
  have := lo.isLt
  rw [hiByte_toNat, word16_toNat]
  omega

/-- The page test in whole numbers (R170). -/
theorem pageCross_eq (base ea : Addr) :
    pageCross base ea = decide (ea.toNat / 256 ≠ base.toNat / 256) := by
  rw [pageCross, Bool.eq_iff_iff]
  simp only [bne_iff_ne, ne_eq, decide_eq_true_eq, ← hiByte_toNat, BitVec.toNat_inj]

end Sys2Proof.Machine
end

