-- ==== Sys2Proof/Laws/Mem.lean ====
section
/-! SUPPORT. The laws of a memory: a read after a write, and that a write keeps the canonical form and the bounds. -/

namespace Sys2Proof

theorem Memory.read_insert_same (m : Memory) (a : Nat) (b : Byte) (h : ∀ c ∈ m, c.1 ≠ a) :
    (m.insert a b).read a = b := by
  induction m with
  | nil => simp [Memory.insert, Memory.read]
  | cons c m ih =>
    obtain ⟨k, v⟩ := c
    simp only [List.mem_cons, forall_eq_or_imp] at h
    by_cases hk : a < k
    · simp [Memory.insert, hk, Memory.read]
    · simp [Memory.insert, hk, Memory.read, h.1, ih h.2]

theorem Memory.read_insert_other (m : Memory) {a x : Nat} (b : Byte) (hx : x ≠ a) :
    (m.insert a b).read x = m.read x := by
  induction m with
  | nil => simp [Memory.insert, Memory.read, hx.symm]
  | cons c m ih =>
    obtain ⟨k, v⟩ := c
    by_cases hk : a < k <;> simp [Memory.insert, hk, Memory.read, ih, hx.symm]

theorem Memory.read_of_not_mem (m : Memory) (a : Nat) (h : ∀ c ∈ m, c.1 ≠ a) :
    m.read a = Memory.fill := by
  induction m with
  | nil => rfl
  | cons c m ih =>
    obtain ⟨k, v⟩ := c
    simp only [List.mem_cons, forall_eq_or_imp] at h
    simp [Memory.read, h.1, ih h.2]

theorem Memory.mem_erase {m : Memory} {a : Nat} {c : Host.Cell} :
    c ∈ m.erase a ↔ c ∈ m ∧ c.1 ≠ a := by
  simp [Memory.erase]

theorem Memory.read_erase_other (m : Memory) {a x : Nat} (hx : x ≠ a) :
    (m.erase a).read x = m.read x := by
  induction m with
  | nil => rfl
  | cons c m ih =>
    obtain ⟨k, v⟩ := c
    by_cases hk : k = a
    · subst hk
      simpa [Memory.erase, Memory.read, hx.symm] using ih
    · have ih' : Memory.read (List.filter (fun c => !decide (c.1 = a)) m) x = Memory.read m x := by
        simpa [Memory.erase] using ih
      simp [Memory.erase, Memory.read, hk, ih']

/-- A read after a write of the same index gives the byte written. -/
@[simp] theorem Memory.read_write_same (m : Memory) (a : Nat) (b : Byte) :
    (m.write a b).read a = b := by
  unfold Memory.write
  split
  · next h => rw [h]; exact Memory.read_of_not_mem _ _ fun c hc => (Memory.mem_erase.mp hc).2
  · exact Memory.read_insert_same _ _ _ fun c hc => (Memory.mem_erase.mp hc).2

/-- A write leaves every other index alone. -/
theorem Memory.read_write_other (m : Memory) {a x : Nat} (b : Byte) (hx : x ≠ a) :
    (m.write a b).read x = m.read x := by
  unfold Memory.write
  split
  · exact Memory.read_erase_other m hx
  · rw [Memory.read_insert_other _ _ hx, Memory.read_erase_other m hx]

/-- The two laws as one equation. -/
theorem Memory.read_write (m : Memory) (a x : Nat) (b : Byte) :
    (m.write a b).read x = if x = a then b else m.read x := by
  split
  · next h => rw [h, Memory.read_write_same]
  · next h => exact Memory.read_write_other m b h

theorem Memory.mem_insert {m : Memory} {a : Nat} {b : Byte} {c : Host.Cell} :
    c ∈ m.insert a b ↔ c = (a, b) ∨ c ∈ m := by
  induction m with
  | nil => simp [Memory.insert]
  | cons d m ih =>
    obtain ⟨k, v⟩ := d
    by_cases hk : a < k
    · simp [Memory.insert, hk]
    · simp [Memory.insert, hk, ih, or_left_comm]

theorem Memory.insert_pairwise {m : Memory} {a : Nat} {b : Byte}
    (hm : m.Pairwise fun c d => c.1 < d.1) (h : ∀ c ∈ m, c.1 ≠ a) :
    (m.insert a b).Pairwise fun c d => c.1 < d.1 := by
  induction m with
  | nil => simp [Memory.insert]
  | cons d m ih =>
    obtain ⟨k, v⟩ := d
    simp only [List.pairwise_cons, List.mem_cons, forall_eq_or_imp] at hm h
    by_cases hk : a < k
    · rw [Memory.insert, if_pos hk]
      simp only [List.pairwise_cons, List.mem_cons, forall_eq_or_imp]
      exact ⟨⟨hk, fun c hc => Nat.lt_trans hk (hm.1 c hc)⟩, hm.1, hm.2⟩
    · rw [Memory.insert, if_neg hk, List.pairwise_cons]
      refine ⟨fun c hc => ?_, ih hm.2 h.2⟩
      rcases Memory.mem_insert.mp hc with rfl | hc
      · have := h.1; omega
      · exact hm.1 c hc

/-- A write keeps the canonical form. -/
theorem Memory.write_wf {m : Memory} (h : m.Wf) (a : Nat) (b : Byte) : (m.write a b).Wf := by
  have he : (m.erase a).Pairwise (fun c d => c.1 < d.1) := h.1.filter _
  have hf : ∀ c ∈ m.erase a, c.2 ≠ Memory.fill := fun c hc => h.2 c (Memory.mem_erase.mp hc).1
  unfold Memory.write
  split
  · exact ⟨he, hf⟩
  · next hb =>
    refine ⟨Memory.insert_pairwise he fun c hc => (Memory.mem_erase.mp hc).2, fun c hc => ?_⟩
    rcases Memory.mem_insert.mp hc with rfl | hc
    · exact hb
    · exact hf c hc

/-- A write below a bound keeps the bound. -/
theorem Memory.write_below {m : Memory} {n : Nat} (h : m.Below n) {a : Nat} (ha : a < n) (b : Byte) :
    (m.write a b).Below n := by
  unfold Memory.write
  split
  · exact fun c hc => h c (Memory.mem_erase.mp hc).1
  · intro c hc
    rcases Memory.mem_insert.mp hc with rfl | hc
    · exact ha
    · exact h c (Memory.mem_erase.mp hc).1

theorem Memory.nil_wf : Memory.Wf [] := ⟨List.Pairwise.nil, by simp⟩

theorem Memory.nil_below (n : Nat) : Memory.Below [] n := by simp [Memory.Below]

end Sys2Proof
end

