-- ==== Sys2Proof/Laws/State.lean ====
section
/-! SUPPORT. The field lemmas of every named update of the state, each true by unfolding, so that no later proof unfolds a record update. -/

namespace Sys2Proof.Machine

variable (s : State)

/-! ## State.setA -/

@[simp] theorem setA_cpu_a (v : Byte) : (s.setA v).cpu.a = v := rfl
@[simp] theorem setA_cpu_x (v : Byte) : (s.setA v).cpu.x = s.cpu.x := rfl
@[simp] theorem setA_cpu_y (v : Byte) : (s.setA v).cpu.y = s.cpu.y := rfl
@[simp] theorem setA_cpu_s (v : Byte) : (s.setA v).cpu.s = s.cpu.s := rfl
@[simp] theorem setA_cpu_p (v : Byte) : (s.setA v).cpu.p = s.cpu.p := rfl
@[simp] theorem setA_cpu_pc (v : Byte) : (s.setA v).cpu.pc = s.cpu.pc := rfl
@[simp] theorem setA_cpu_cyc (v : Byte) : (s.setA v).cpu.cyc = s.cpu.cyc := rfl
@[simp] theorem setA_cpu_pgx (v : Byte) : (s.setA v).cpu.pgx = s.cpu.pgx := rfl
@[simp] theorem setA_cpu_halted (v : Byte) : (s.setA v).cpu.halted = s.cpu.halted := rfl
@[simp] theorem setA_cpu_haltInfo (v : Byte) : (s.setA v).cpu.haltInfo = s.cpu.haltInfo := rfl
@[simp] theorem setA_cpu_nmiPrev (v : Byte) : (s.setA v).cpu.nmiPrev = s.cpu.nmiPrev := rfl
@[simp] theorem setA_cfg (v : Byte) : (s.setA v).cfg = s.cfg := rfl
@[simp] theorem setA_ppu (v : Byte) : (s.setA v).ppu = s.ppu := rfl
@[simp] theorem setA_mapper (v : Byte) : (s.setA v).mapper = s.mapper := rfl
@[simp] theorem setA_wram (v : Byte) : (s.setA v).wram = s.wram := rfl
@[simp] theorem setA_ntram (v : Byte) : (s.setA v).ntram = s.ntram := rfl
@[simp] theorem setA_ntramExt (v : Byte) : (s.setA v).ntramExt = s.ntramExt := rfl
@[simp] theorem setA_cartRam (v : Byte) : (s.setA v).cartRam = s.cartRam := rfl
@[simp] theorem setA_patRam (v : Byte) : (s.setA v).patRam = s.patRam := rfl
@[simp] theorem setA_stepCount (v : Byte) : (s.setA v).stepCount = s.stepCount := rfl
@[simp] theorem setA_env (v : Byte) : (s.setA v).env = s.env := rfl
@[simp] theorem setA_events (v : Byte) : (s.setA v).events = s.events := rfl

/-! ## State.setX -/

@[simp] theorem setX_cpu_a (v : Byte) : (s.setX v).cpu.a = s.cpu.a := rfl
@[simp] theorem setX_cpu_x (v : Byte) : (s.setX v).cpu.x = v := rfl
@[simp] theorem setX_cpu_y (v : Byte) : (s.setX v).cpu.y = s.cpu.y := rfl
@[simp] theorem setX_cpu_s (v : Byte) : (s.setX v).cpu.s = s.cpu.s := rfl
@[simp] theorem setX_cpu_p (v : Byte) : (s.setX v).cpu.p = s.cpu.p := rfl
@[simp] theorem setX_cpu_pc (v : Byte) : (s.setX v).cpu.pc = s.cpu.pc := rfl
@[simp] theorem setX_cpu_cyc (v : Byte) : (s.setX v).cpu.cyc = s.cpu.cyc := rfl
@[simp] theorem setX_cpu_pgx (v : Byte) : (s.setX v).cpu.pgx = s.cpu.pgx := rfl
@[simp] theorem setX_cpu_halted (v : Byte) : (s.setX v).cpu.halted = s.cpu.halted := rfl
@[simp] theorem setX_cpu_haltInfo (v : Byte) : (s.setX v).cpu.haltInfo = s.cpu.haltInfo := rfl
@[simp] theorem setX_cpu_nmiPrev (v : Byte) : (s.setX v).cpu.nmiPrev = s.cpu.nmiPrev := rfl
@[simp] theorem setX_cfg (v : Byte) : (s.setX v).cfg = s.cfg := rfl
@[simp] theorem setX_ppu (v : Byte) : (s.setX v).ppu = s.ppu := rfl
@[simp] theorem setX_mapper (v : Byte) : (s.setX v).mapper = s.mapper := rfl
@[simp] theorem setX_wram (v : Byte) : (s.setX v).wram = s.wram := rfl
@[simp] theorem setX_ntram (v : Byte) : (s.setX v).ntram = s.ntram := rfl
@[simp] theorem setX_ntramExt (v : Byte) : (s.setX v).ntramExt = s.ntramExt := rfl
@[simp] theorem setX_cartRam (v : Byte) : (s.setX v).cartRam = s.cartRam := rfl
@[simp] theorem setX_patRam (v : Byte) : (s.setX v).patRam = s.patRam := rfl
@[simp] theorem setX_stepCount (v : Byte) : (s.setX v).stepCount = s.stepCount := rfl
@[simp] theorem setX_env (v : Byte) : (s.setX v).env = s.env := rfl
@[simp] theorem setX_events (v : Byte) : (s.setX v).events = s.events := rfl

/-! ## State.setY -/

@[simp] theorem setY_cpu_a (v : Byte) : (s.setY v).cpu.a = s.cpu.a := rfl
@[simp] theorem setY_cpu_x (v : Byte) : (s.setY v).cpu.x = s.cpu.x := rfl
@[simp] theorem setY_cpu_y (v : Byte) : (s.setY v).cpu.y = v := rfl
@[simp] theorem setY_cpu_s (v : Byte) : (s.setY v).cpu.s = s.cpu.s := rfl
@[simp] theorem setY_cpu_p (v : Byte) : (s.setY v).cpu.p = s.cpu.p := rfl
@[simp] theorem setY_cpu_pc (v : Byte) : (s.setY v).cpu.pc = s.cpu.pc := rfl
@[simp] theorem setY_cpu_cyc (v : Byte) : (s.setY v).cpu.cyc = s.cpu.cyc := rfl
@[simp] theorem setY_cpu_pgx (v : Byte) : (s.setY v).cpu.pgx = s.cpu.pgx := rfl
@[simp] theorem setY_cpu_halted (v : Byte) : (s.setY v).cpu.halted = s.cpu.halted := rfl
@[simp] theorem setY_cpu_haltInfo (v : Byte) : (s.setY v).cpu.haltInfo = s.cpu.haltInfo := rfl
@[simp] theorem setY_cpu_nmiPrev (v : Byte) : (s.setY v).cpu.nmiPrev = s.cpu.nmiPrev := rfl
@[simp] theorem setY_cfg (v : Byte) : (s.setY v).cfg = s.cfg := rfl
@[simp] theorem setY_ppu (v : Byte) : (s.setY v).ppu = s.ppu := rfl
@[simp] theorem setY_mapper (v : Byte) : (s.setY v).mapper = s.mapper := rfl
@[simp] theorem setY_wram (v : Byte) : (s.setY v).wram = s.wram := rfl
@[simp] theorem setY_ntram (v : Byte) : (s.setY v).ntram = s.ntram := rfl
@[simp] theorem setY_ntramExt (v : Byte) : (s.setY v).ntramExt = s.ntramExt := rfl
@[simp] theorem setY_cartRam (v : Byte) : (s.setY v).cartRam = s.cartRam := rfl
@[simp] theorem setY_patRam (v : Byte) : (s.setY v).patRam = s.patRam := rfl
@[simp] theorem setY_stepCount (v : Byte) : (s.setY v).stepCount = s.stepCount := rfl
@[simp] theorem setY_env (v : Byte) : (s.setY v).env = s.env := rfl
@[simp] theorem setY_events (v : Byte) : (s.setY v).events = s.events := rfl

/-! ## State.setS -/

@[simp] theorem setS_cpu_a (v : Byte) : (s.setS v).cpu.a = s.cpu.a := rfl
@[simp] theorem setS_cpu_x (v : Byte) : (s.setS v).cpu.x = s.cpu.x := rfl
@[simp] theorem setS_cpu_y (v : Byte) : (s.setS v).cpu.y = s.cpu.y := rfl
@[simp] theorem setS_cpu_s (v : Byte) : (s.setS v).cpu.s = v := rfl
@[simp] theorem setS_cpu_p (v : Byte) : (s.setS v).cpu.p = s.cpu.p := rfl
@[simp] theorem setS_cpu_pc (v : Byte) : (s.setS v).cpu.pc = s.cpu.pc := rfl
@[simp] theorem setS_cpu_cyc (v : Byte) : (s.setS v).cpu.cyc = s.cpu.cyc := rfl
@[simp] theorem setS_cpu_pgx (v : Byte) : (s.setS v).cpu.pgx = s.cpu.pgx := rfl
@[simp] theorem setS_cpu_halted (v : Byte) : (s.setS v).cpu.halted = s.cpu.halted := rfl
@[simp] theorem setS_cpu_haltInfo (v : Byte) : (s.setS v).cpu.haltInfo = s.cpu.haltInfo := rfl
@[simp] theorem setS_cpu_nmiPrev (v : Byte) : (s.setS v).cpu.nmiPrev = s.cpu.nmiPrev := rfl
@[simp] theorem setS_cfg (v : Byte) : (s.setS v).cfg = s.cfg := rfl
@[simp] theorem setS_ppu (v : Byte) : (s.setS v).ppu = s.ppu := rfl
@[simp] theorem setS_mapper (v : Byte) : (s.setS v).mapper = s.mapper := rfl
@[simp] theorem setS_wram (v : Byte) : (s.setS v).wram = s.wram := rfl
@[simp] theorem setS_ntram (v : Byte) : (s.setS v).ntram = s.ntram := rfl
@[simp] theorem setS_ntramExt (v : Byte) : (s.setS v).ntramExt = s.ntramExt := rfl
@[simp] theorem setS_cartRam (v : Byte) : (s.setS v).cartRam = s.cartRam := rfl
@[simp] theorem setS_patRam (v : Byte) : (s.setS v).patRam = s.patRam := rfl
@[simp] theorem setS_stepCount (v : Byte) : (s.setS v).stepCount = s.stepCount := rfl
@[simp] theorem setS_env (v : Byte) : (s.setS v).env = s.env := rfl
@[simp] theorem setS_events (v : Byte) : (s.setS v).events = s.events := rfl

/-! ## State.setP -/

@[simp] theorem setP_cpu_a (v : Byte) : (s.setP v).cpu.a = s.cpu.a := rfl
@[simp] theorem setP_cpu_x (v : Byte) : (s.setP v).cpu.x = s.cpu.x := rfl
@[simp] theorem setP_cpu_y (v : Byte) : (s.setP v).cpu.y = s.cpu.y := rfl
@[simp] theorem setP_cpu_s (v : Byte) : (s.setP v).cpu.s = s.cpu.s := rfl
@[simp] theorem setP_cpu_p (v : Byte) : (s.setP v).cpu.p = v := rfl
@[simp] theorem setP_cpu_pc (v : Byte) : (s.setP v).cpu.pc = s.cpu.pc := rfl
@[simp] theorem setP_cpu_cyc (v : Byte) : (s.setP v).cpu.cyc = s.cpu.cyc := rfl
@[simp] theorem setP_cpu_pgx (v : Byte) : (s.setP v).cpu.pgx = s.cpu.pgx := rfl
@[simp] theorem setP_cpu_halted (v : Byte) : (s.setP v).cpu.halted = s.cpu.halted := rfl
@[simp] theorem setP_cpu_haltInfo (v : Byte) : (s.setP v).cpu.haltInfo = s.cpu.haltInfo := rfl
@[simp] theorem setP_cpu_nmiPrev (v : Byte) : (s.setP v).cpu.nmiPrev = s.cpu.nmiPrev := rfl
@[simp] theorem setP_cfg (v : Byte) : (s.setP v).cfg = s.cfg := rfl
@[simp] theorem setP_ppu (v : Byte) : (s.setP v).ppu = s.ppu := rfl
@[simp] theorem setP_mapper (v : Byte) : (s.setP v).mapper = s.mapper := rfl
@[simp] theorem setP_wram (v : Byte) : (s.setP v).wram = s.wram := rfl
@[simp] theorem setP_ntram (v : Byte) : (s.setP v).ntram = s.ntram := rfl
@[simp] theorem setP_ntramExt (v : Byte) : (s.setP v).ntramExt = s.ntramExt := rfl
@[simp] theorem setP_cartRam (v : Byte) : (s.setP v).cartRam = s.cartRam := rfl
@[simp] theorem setP_patRam (v : Byte) : (s.setP v).patRam = s.patRam := rfl
@[simp] theorem setP_stepCount (v : Byte) : (s.setP v).stepCount = s.stepCount := rfl
@[simp] theorem setP_env (v : Byte) : (s.setP v).env = s.env := rfl
@[simp] theorem setP_events (v : Byte) : (s.setP v).events = s.events := rfl

/-! ## State.setPc -/

@[simp] theorem setPc_cpu_a (v : Addr) : (s.setPc v).cpu.a = s.cpu.a := rfl
@[simp] theorem setPc_cpu_x (v : Addr) : (s.setPc v).cpu.x = s.cpu.x := rfl
@[simp] theorem setPc_cpu_y (v : Addr) : (s.setPc v).cpu.y = s.cpu.y := rfl
@[simp] theorem setPc_cpu_s (v : Addr) : (s.setPc v).cpu.s = s.cpu.s := rfl
@[simp] theorem setPc_cpu_p (v : Addr) : (s.setPc v).cpu.p = s.cpu.p := rfl
@[simp] theorem setPc_cpu_pc (v : Addr) : (s.setPc v).cpu.pc = v := rfl
@[simp] theorem setPc_cpu_cyc (v : Addr) : (s.setPc v).cpu.cyc = s.cpu.cyc := rfl
@[simp] theorem setPc_cpu_pgx (v : Addr) : (s.setPc v).cpu.pgx = s.cpu.pgx := rfl
@[simp] theorem setPc_cpu_halted (v : Addr) : (s.setPc v).cpu.halted = s.cpu.halted := rfl
@[simp] theorem setPc_cpu_haltInfo (v : Addr) : (s.setPc v).cpu.haltInfo = s.cpu.haltInfo := rfl
@[simp] theorem setPc_cpu_nmiPrev (v : Addr) : (s.setPc v).cpu.nmiPrev = s.cpu.nmiPrev := rfl
@[simp] theorem setPc_cfg (v : Addr) : (s.setPc v).cfg = s.cfg := rfl
@[simp] theorem setPc_ppu (v : Addr) : (s.setPc v).ppu = s.ppu := rfl
@[simp] theorem setPc_mapper (v : Addr) : (s.setPc v).mapper = s.mapper := rfl
@[simp] theorem setPc_wram (v : Addr) : (s.setPc v).wram = s.wram := rfl
@[simp] theorem setPc_ntram (v : Addr) : (s.setPc v).ntram = s.ntram := rfl
@[simp] theorem setPc_ntramExt (v : Addr) : (s.setPc v).ntramExt = s.ntramExt := rfl
@[simp] theorem setPc_cartRam (v : Addr) : (s.setPc v).cartRam = s.cartRam := rfl
@[simp] theorem setPc_patRam (v : Addr) : (s.setPc v).patRam = s.patRam := rfl
@[simp] theorem setPc_stepCount (v : Addr) : (s.setPc v).stepCount = s.stepCount := rfl
@[simp] theorem setPc_env (v : Addr) : (s.setPc v).env = s.env := rfl
@[simp] theorem setPc_events (v : Addr) : (s.setPc v).events = s.events := rfl

/-! ## State.setCyc -/

@[simp] theorem setCyc_cpu_a (n : Nat) : (s.setCyc n).cpu.a = s.cpu.a := rfl
@[simp] theorem setCyc_cpu_x (n : Nat) : (s.setCyc n).cpu.x = s.cpu.x := rfl
@[simp] theorem setCyc_cpu_y (n : Nat) : (s.setCyc n).cpu.y = s.cpu.y := rfl
@[simp] theorem setCyc_cpu_s (n : Nat) : (s.setCyc n).cpu.s = s.cpu.s := rfl
@[simp] theorem setCyc_cpu_p (n : Nat) : (s.setCyc n).cpu.p = s.cpu.p := rfl
@[simp] theorem setCyc_cpu_pc (n : Nat) : (s.setCyc n).cpu.pc = s.cpu.pc := rfl
@[simp] theorem setCyc_cpu_cyc (n : Nat) : (s.setCyc n).cpu.cyc = n := rfl
@[simp] theorem setCyc_cpu_pgx (n : Nat) : (s.setCyc n).cpu.pgx = s.cpu.pgx := rfl
@[simp] theorem setCyc_cpu_halted (n : Nat) : (s.setCyc n).cpu.halted = s.cpu.halted := rfl
@[simp] theorem setCyc_cpu_haltInfo (n : Nat) : (s.setCyc n).cpu.haltInfo = s.cpu.haltInfo := rfl
@[simp] theorem setCyc_cpu_nmiPrev (n : Nat) : (s.setCyc n).cpu.nmiPrev = s.cpu.nmiPrev := rfl
@[simp] theorem setCyc_cfg (n : Nat) : (s.setCyc n).cfg = s.cfg := rfl
@[simp] theorem setCyc_ppu (n : Nat) : (s.setCyc n).ppu = s.ppu := rfl
@[simp] theorem setCyc_mapper (n : Nat) : (s.setCyc n).mapper = s.mapper := rfl
@[simp] theorem setCyc_wram (n : Nat) : (s.setCyc n).wram = s.wram := rfl
@[simp] theorem setCyc_ntram (n : Nat) : (s.setCyc n).ntram = s.ntram := rfl
@[simp] theorem setCyc_ntramExt (n : Nat) : (s.setCyc n).ntramExt = s.ntramExt := rfl
@[simp] theorem setCyc_cartRam (n : Nat) : (s.setCyc n).cartRam = s.cartRam := rfl
@[simp] theorem setCyc_patRam (n : Nat) : (s.setCyc n).patRam = s.patRam := rfl
@[simp] theorem setCyc_stepCount (n : Nat) : (s.setCyc n).stepCount = s.stepCount := rfl
@[simp] theorem setCyc_env (n : Nat) : (s.setCyc n).env = s.env := rfl
@[simp] theorem setCyc_events (n : Nat) : (s.setCyc n).events = s.events := rfl

/-! ## State.setPgx -/

@[simp] theorem setPgx_cpu_a (b : Bool) : (s.setPgx b).cpu.a = s.cpu.a := rfl
@[simp] theorem setPgx_cpu_x (b : Bool) : (s.setPgx b).cpu.x = s.cpu.x := rfl
@[simp] theorem setPgx_cpu_y (b : Bool) : (s.setPgx b).cpu.y = s.cpu.y := rfl
@[simp] theorem setPgx_cpu_s (b : Bool) : (s.setPgx b).cpu.s = s.cpu.s := rfl
@[simp] theorem setPgx_cpu_p (b : Bool) : (s.setPgx b).cpu.p = s.cpu.p := rfl
@[simp] theorem setPgx_cpu_pc (b : Bool) : (s.setPgx b).cpu.pc = s.cpu.pc := rfl
@[simp] theorem setPgx_cpu_cyc (b : Bool) : (s.setPgx b).cpu.cyc = s.cpu.cyc := rfl
@[simp] theorem setPgx_cpu_pgx (b : Bool) : (s.setPgx b).cpu.pgx = b := rfl
@[simp] theorem setPgx_cpu_halted (b : Bool) : (s.setPgx b).cpu.halted = s.cpu.halted := rfl
@[simp] theorem setPgx_cpu_haltInfo (b : Bool) : (s.setPgx b).cpu.haltInfo = s.cpu.haltInfo := rfl
@[simp] theorem setPgx_cpu_nmiPrev (b : Bool) : (s.setPgx b).cpu.nmiPrev = s.cpu.nmiPrev := rfl
@[simp] theorem setPgx_cfg (b : Bool) : (s.setPgx b).cfg = s.cfg := rfl
@[simp] theorem setPgx_ppu (b : Bool) : (s.setPgx b).ppu = s.ppu := rfl
@[simp] theorem setPgx_mapper (b : Bool) : (s.setPgx b).mapper = s.mapper := rfl
@[simp] theorem setPgx_wram (b : Bool) : (s.setPgx b).wram = s.wram := rfl
@[simp] theorem setPgx_ntram (b : Bool) : (s.setPgx b).ntram = s.ntram := rfl
@[simp] theorem setPgx_ntramExt (b : Bool) : (s.setPgx b).ntramExt = s.ntramExt := rfl
@[simp] theorem setPgx_cartRam (b : Bool) : (s.setPgx b).cartRam = s.cartRam := rfl
@[simp] theorem setPgx_patRam (b : Bool) : (s.setPgx b).patRam = s.patRam := rfl
@[simp] theorem setPgx_stepCount (b : Bool) : (s.setPgx b).stepCount = s.stepCount := rfl
@[simp] theorem setPgx_env (b : Bool) : (s.setPgx b).env = s.env := rfl
@[simp] theorem setPgx_events (b : Bool) : (s.setPgx b).events = s.events := rfl

/-! ## State.setNmiPrev -/

@[simp] theorem setNmiPrev_cpu_a (b : Bool) : (s.setNmiPrev b).cpu.a = s.cpu.a := rfl
@[simp] theorem setNmiPrev_cpu_x (b : Bool) : (s.setNmiPrev b).cpu.x = s.cpu.x := rfl
@[simp] theorem setNmiPrev_cpu_y (b : Bool) : (s.setNmiPrev b).cpu.y = s.cpu.y := rfl
@[simp] theorem setNmiPrev_cpu_s (b : Bool) : (s.setNmiPrev b).cpu.s = s.cpu.s := rfl
@[simp] theorem setNmiPrev_cpu_p (b : Bool) : (s.setNmiPrev b).cpu.p = s.cpu.p := rfl
@[simp] theorem setNmiPrev_cpu_pc (b : Bool) : (s.setNmiPrev b).cpu.pc = s.cpu.pc := rfl
@[simp] theorem setNmiPrev_cpu_cyc (b : Bool) : (s.setNmiPrev b).cpu.cyc = s.cpu.cyc := rfl
@[simp] theorem setNmiPrev_cpu_pgx (b : Bool) : (s.setNmiPrev b).cpu.pgx = s.cpu.pgx := rfl
@[simp] theorem setNmiPrev_cpu_halted (b : Bool) : (s.setNmiPrev b).cpu.halted = s.cpu.halted := rfl
@[simp] theorem setNmiPrev_cpu_haltInfo (b : Bool) : (s.setNmiPrev b).cpu.haltInfo = s.cpu.haltInfo := rfl
@[simp] theorem setNmiPrev_cpu_nmiPrev (b : Bool) : (s.setNmiPrev b).cpu.nmiPrev = b := rfl
@[simp] theorem setNmiPrev_cfg (b : Bool) : (s.setNmiPrev b).cfg = s.cfg := rfl
@[simp] theorem setNmiPrev_ppu (b : Bool) : (s.setNmiPrev b).ppu = s.ppu := rfl
@[simp] theorem setNmiPrev_mapper (b : Bool) : (s.setNmiPrev b).mapper = s.mapper := rfl
@[simp] theorem setNmiPrev_wram (b : Bool) : (s.setNmiPrev b).wram = s.wram := rfl
@[simp] theorem setNmiPrev_ntram (b : Bool) : (s.setNmiPrev b).ntram = s.ntram := rfl
@[simp] theorem setNmiPrev_ntramExt (b : Bool) : (s.setNmiPrev b).ntramExt = s.ntramExt := rfl
@[simp] theorem setNmiPrev_cartRam (b : Bool) : (s.setNmiPrev b).cartRam = s.cartRam := rfl
@[simp] theorem setNmiPrev_patRam (b : Bool) : (s.setNmiPrev b).patRam = s.patRam := rfl
@[simp] theorem setNmiPrev_stepCount (b : Bool) : (s.setNmiPrev b).stepCount = s.stepCount := rfl
@[simp] theorem setNmiPrev_env (b : Bool) : (s.setNmiPrev b).env = s.env := rfl
@[simp] theorem setNmiPrev_events (b : Bool) : (s.setNmiPrev b).events = s.events := rfl

/-! ## State.updZN and State.putFlag -/

@[simp] theorem updZN_cpu_a (v : Byte) : (s.updZN v).cpu.a = s.cpu.a := rfl
@[simp] theorem updZN_cpu_x (v : Byte) : (s.updZN v).cpu.x = s.cpu.x := rfl
@[simp] theorem updZN_cpu_y (v : Byte) : (s.updZN v).cpu.y = s.cpu.y := rfl
@[simp] theorem updZN_cpu_s (v : Byte) : (s.updZN v).cpu.s = s.cpu.s := rfl
@[simp] theorem updZN_cpu_p (v : Byte) : (s.updZN v).cpu.p = setZN v s.cpu.p := rfl
@[simp] theorem updZN_cpu_pc (v : Byte) : (s.updZN v).cpu.pc = s.cpu.pc := rfl
@[simp] theorem updZN_cpu_cyc (v : Byte) : (s.updZN v).cpu.cyc = s.cpu.cyc := rfl
@[simp] theorem updZN_cpu_pgx (v : Byte) : (s.updZN v).cpu.pgx = s.cpu.pgx := rfl
@[simp] theorem updZN_cpu_halted (v : Byte) : (s.updZN v).cpu.halted = s.cpu.halted := rfl
@[simp] theorem updZN_cpu_haltInfo (v : Byte) : (s.updZN v).cpu.haltInfo = s.cpu.haltInfo := rfl
@[simp] theorem updZN_cpu_nmiPrev (v : Byte) : (s.updZN v).cpu.nmiPrev = s.cpu.nmiPrev := rfl
@[simp] theorem updZN_cfg (v : Byte) : (s.updZN v).cfg = s.cfg := rfl
@[simp] theorem updZN_ppu (v : Byte) : (s.updZN v).ppu = s.ppu := rfl
@[simp] theorem updZN_mapper (v : Byte) : (s.updZN v).mapper = s.mapper := rfl
@[simp] theorem updZN_wram (v : Byte) : (s.updZN v).wram = s.wram := rfl
@[simp] theorem updZN_ntram (v : Byte) : (s.updZN v).ntram = s.ntram := rfl
@[simp] theorem updZN_ntramExt (v : Byte) : (s.updZN v).ntramExt = s.ntramExt := rfl
@[simp] theorem updZN_cartRam (v : Byte) : (s.updZN v).cartRam = s.cartRam := rfl
@[simp] theorem updZN_patRam (v : Byte) : (s.updZN v).patRam = s.patRam := rfl
@[simp] theorem updZN_stepCount (v : Byte) : (s.updZN v).stepCount = s.stepCount := rfl
@[simp] theorem updZN_env (v : Byte) : (s.updZN v).env = s.env := rfl
@[simp] theorem updZN_events (v : Byte) : (s.updZN v).events = s.events := rfl

@[simp] theorem putFlag_cpu_a (f : Flag) (b : Bool) : (s.putFlag f b).cpu.a = s.cpu.a := rfl
@[simp] theorem putFlag_cpu_x (f : Flag) (b : Bool) : (s.putFlag f b).cpu.x = s.cpu.x := rfl
@[simp] theorem putFlag_cpu_y (f : Flag) (b : Bool) : (s.putFlag f b).cpu.y = s.cpu.y := rfl
@[simp] theorem putFlag_cpu_s (f : Flag) (b : Bool) : (s.putFlag f b).cpu.s = s.cpu.s := rfl
@[simp] theorem putFlag_cpu_p (f : Flag) (b : Bool) : (s.putFlag f b).cpu.p = setFlag f b s.cpu.p := rfl
@[simp] theorem putFlag_cpu_pc (f : Flag) (b : Bool) : (s.putFlag f b).cpu.pc = s.cpu.pc := rfl
@[simp] theorem putFlag_cpu_cyc (f : Flag) (b : Bool) : (s.putFlag f b).cpu.cyc = s.cpu.cyc := rfl
@[simp] theorem putFlag_cpu_pgx (f : Flag) (b : Bool) : (s.putFlag f b).cpu.pgx = s.cpu.pgx := rfl
@[simp] theorem putFlag_cpu_halted (f : Flag) (b : Bool) : (s.putFlag f b).cpu.halted = s.cpu.halted := rfl
@[simp] theorem putFlag_cpu_haltInfo (f : Flag) (b : Bool) : (s.putFlag f b).cpu.haltInfo = s.cpu.haltInfo := rfl
@[simp] theorem putFlag_cpu_nmiPrev (f : Flag) (b : Bool) : (s.putFlag f b).cpu.nmiPrev = s.cpu.nmiPrev := rfl
@[simp] theorem putFlag_cfg (f : Flag) (b : Bool) : (s.putFlag f b).cfg = s.cfg := rfl
@[simp] theorem putFlag_ppu (f : Flag) (b : Bool) : (s.putFlag f b).ppu = s.ppu := rfl
@[simp] theorem putFlag_mapper (f : Flag) (b : Bool) : (s.putFlag f b).mapper = s.mapper := rfl
@[simp] theorem putFlag_wram (f : Flag) (b : Bool) : (s.putFlag f b).wram = s.wram := rfl
@[simp] theorem putFlag_ntram (f : Flag) (b : Bool) : (s.putFlag f b).ntram = s.ntram := rfl
@[simp] theorem putFlag_ntramExt (f : Flag) (b : Bool) : (s.putFlag f b).ntramExt = s.ntramExt := rfl
@[simp] theorem putFlag_cartRam (f : Flag) (b : Bool) : (s.putFlag f b).cartRam = s.cartRam := rfl
@[simp] theorem putFlag_patRam (f : Flag) (b : Bool) : (s.putFlag f b).patRam = s.patRam := rfl
@[simp] theorem putFlag_stepCount (f : Flag) (b : Bool) : (s.putFlag f b).stepCount = s.stepCount := rfl
@[simp] theorem putFlag_env (f : Flag) (b : Bool) : (s.putFlag f b).env = s.env := rfl
@[simp] theorem putFlag_events (f : Flag) (b : Bool) : (s.putFlag f b).events = s.events := rfl

/-! ## State.mapCpu -/

@[simp] theorem mapCpu_cfg (f : Cpu → Cpu) : (s.mapCpu f).cfg = s.cfg := rfl
@[simp] theorem mapCpu_cpu (f : Cpu → Cpu) : (s.mapCpu f).cpu = f s.cpu := rfl
@[simp] theorem mapCpu_ppu (f : Cpu → Cpu) : (s.mapCpu f).ppu = s.ppu := rfl
@[simp] theorem mapCpu_mapper (f : Cpu → Cpu) : (s.mapCpu f).mapper = s.mapper := rfl
@[simp] theorem mapCpu_wram (f : Cpu → Cpu) : (s.mapCpu f).wram = s.wram := rfl
@[simp] theorem mapCpu_ntram (f : Cpu → Cpu) : (s.mapCpu f).ntram = s.ntram := rfl
@[simp] theorem mapCpu_ntramExt (f : Cpu → Cpu) : (s.mapCpu f).ntramExt = s.ntramExt := rfl
@[simp] theorem mapCpu_cartRam (f : Cpu → Cpu) : (s.mapCpu f).cartRam = s.cartRam := rfl
@[simp] theorem mapCpu_patRam (f : Cpu → Cpu) : (s.mapCpu f).patRam = s.patRam := rfl
@[simp] theorem mapCpu_stepCount (f : Cpu → Cpu) : (s.mapCpu f).stepCount = s.stepCount := rfl
@[simp] theorem mapCpu_env (f : Cpu → Cpu) : (s.mapCpu f).env = s.env := rfl
@[simp] theorem mapCpu_events (f : Cpu → Cpu) : (s.mapCpu f).events = s.events := rfl

/-! ## State.mapPpu -/

@[simp] theorem mapPpu_cfg (f : Ppu → Ppu) : (s.mapPpu f).cfg = s.cfg := rfl
@[simp] theorem mapPpu_cpu (f : Ppu → Ppu) : (s.mapPpu f).cpu = s.cpu := rfl
@[simp] theorem mapPpu_ppu (f : Ppu → Ppu) : (s.mapPpu f).ppu = f s.ppu := rfl
@[simp] theorem mapPpu_mapper (f : Ppu → Ppu) : (s.mapPpu f).mapper = s.mapper := rfl
@[simp] theorem mapPpu_wram (f : Ppu → Ppu) : (s.mapPpu f).wram = s.wram := rfl
@[simp] theorem mapPpu_ntram (f : Ppu → Ppu) : (s.mapPpu f).ntram = s.ntram := rfl
@[simp] theorem mapPpu_ntramExt (f : Ppu → Ppu) : (s.mapPpu f).ntramExt = s.ntramExt := rfl
@[simp] theorem mapPpu_cartRam (f : Ppu → Ppu) : (s.mapPpu f).cartRam = s.cartRam := rfl
@[simp] theorem mapPpu_patRam (f : Ppu → Ppu) : (s.mapPpu f).patRam = s.patRam := rfl
@[simp] theorem mapPpu_stepCount (f : Ppu → Ppu) : (s.mapPpu f).stepCount = s.stepCount := rfl
@[simp] theorem mapPpu_env (f : Ppu → Ppu) : (s.mapPpu f).env = s.env := rfl
@[simp] theorem mapPpu_events (f : Ppu → Ppu) : (s.mapPpu f).events = s.events := rfl

/-! ## State.setMapper -/

@[simp] theorem setMapper_cfg (m : Mapper) : (s.setMapper m).cfg = s.cfg := rfl
@[simp] theorem setMapper_cpu (m : Mapper) : (s.setMapper m).cpu = s.cpu := rfl
@[simp] theorem setMapper_ppu (m : Mapper) : (s.setMapper m).ppu = s.ppu := rfl
@[simp] theorem setMapper_mapper (m : Mapper) : (s.setMapper m).mapper = m := rfl
@[simp] theorem setMapper_wram (m : Mapper) : (s.setMapper m).wram = s.wram := rfl
@[simp] theorem setMapper_ntram (m : Mapper) : (s.setMapper m).ntram = s.ntram := rfl
@[simp] theorem setMapper_ntramExt (m : Mapper) : (s.setMapper m).ntramExt = s.ntramExt := rfl
@[simp] theorem setMapper_cartRam (m : Mapper) : (s.setMapper m).cartRam = s.cartRam := rfl
@[simp] theorem setMapper_patRam (m : Mapper) : (s.setMapper m).patRam = s.patRam := rfl
@[simp] theorem setMapper_stepCount (m : Mapper) : (s.setMapper m).stepCount = s.stepCount := rfl
@[simp] theorem setMapper_env (m : Mapper) : (s.setMapper m).env = s.env := rfl
@[simp] theorem setMapper_events (m : Mapper) : (s.setMapper m).events = s.events := rfl

/-! ## State.emit -/

@[simp] theorem emit_cfg (e : Event) : (s.emit e).cfg = s.cfg := rfl
@[simp] theorem emit_cpu (e : Event) : (s.emit e).cpu = s.cpu := rfl
@[simp] theorem emit_ppu (e : Event) : (s.emit e).ppu = s.ppu := rfl
@[simp] theorem emit_mapper (e : Event) : (s.emit e).mapper = s.mapper := rfl
@[simp] theorem emit_wram (e : Event) : (s.emit e).wram = s.wram := rfl
@[simp] theorem emit_ntram (e : Event) : (s.emit e).ntram = s.ntram := rfl
@[simp] theorem emit_ntramExt (e : Event) : (s.emit e).ntramExt = s.ntramExt := rfl
@[simp] theorem emit_cartRam (e : Event) : (s.emit e).cartRam = s.cartRam := rfl
@[simp] theorem emit_patRam (e : Event) : (s.emit e).patRam = s.patRam := rfl
@[simp] theorem emit_stepCount (e : Event) : (s.emit e).stepCount = s.stepCount := rfl
@[simp] theorem emit_env (e : Event) : (s.emit e).env = s.env := rfl
@[simp] theorem emit_events (e : Event) : (s.emit e).events = e :: s.events := rfl

/-! ## State.raiseHalt -/

@[simp] theorem raiseHalt_cpu_a (r : HaltReason) (a : Addr) (d : Byte) (b : Option Nat) : (s.raiseHalt r a d b).cpu.a = s.cpu.a := rfl
@[simp] theorem raiseHalt_cpu_x (r : HaltReason) (a : Addr) (d : Byte) (b : Option Nat) : (s.raiseHalt r a d b).cpu.x = s.cpu.x := rfl
@[simp] theorem raiseHalt_cpu_y (r : HaltReason) (a : Addr) (d : Byte) (b : Option Nat) : (s.raiseHalt r a d b).cpu.y = s.cpu.y := rfl
@[simp] theorem raiseHalt_cpu_s (r : HaltReason) (a : Addr) (d : Byte) (b : Option Nat) : (s.raiseHalt r a d b).cpu.s = s.cpu.s := rfl
@[simp] theorem raiseHalt_cpu_p (r : HaltReason) (a : Addr) (d : Byte) (b : Option Nat) : (s.raiseHalt r a d b).cpu.p = s.cpu.p := rfl
@[simp] theorem raiseHalt_cpu_pc (r : HaltReason) (a : Addr) (d : Byte) (b : Option Nat) : (s.raiseHalt r a d b).cpu.pc = s.cpu.pc := rfl
@[simp] theorem raiseHalt_cpu_cyc (r : HaltReason) (a : Addr) (d : Byte) (b : Option Nat) : (s.raiseHalt r a d b).cpu.cyc = s.cpu.cyc := rfl
@[simp] theorem raiseHalt_cpu_pgx (r : HaltReason) (a : Addr) (d : Byte) (b : Option Nat) : (s.raiseHalt r a d b).cpu.pgx = s.cpu.pgx := rfl
@[simp] theorem raiseHalt_cpu_halted (r : HaltReason) (a : Addr) (d : Byte) (b : Option Nat) : (s.raiseHalt r a d b).cpu.halted = true := rfl
@[simp] theorem raiseHalt_cpu_haltInfo (r : HaltReason) (a : Addr) (d : Byte) (b : Option Nat) : (s.raiseHalt r a d b).cpu.haltInfo = some ⟨r, a, d, b⟩ := rfl
@[simp] theorem raiseHalt_cpu_nmiPrev (r : HaltReason) (a : Addr) (d : Byte) (b : Option Nat) : (s.raiseHalt r a d b).cpu.nmiPrev = s.cpu.nmiPrev := rfl
@[simp] theorem raiseHalt_cfg (r : HaltReason) (a : Addr) (d : Byte) (b : Option Nat) : (s.raiseHalt r a d b).cfg = s.cfg := rfl
@[simp] theorem raiseHalt_ppu (r : HaltReason) (a : Addr) (d : Byte) (b : Option Nat) : (s.raiseHalt r a d b).ppu = s.ppu := rfl
@[simp] theorem raiseHalt_mapper (r : HaltReason) (a : Addr) (d : Byte) (b : Option Nat) : (s.raiseHalt r a d b).mapper = s.mapper := rfl
@[simp] theorem raiseHalt_wram (r : HaltReason) (a : Addr) (d : Byte) (b : Option Nat) : (s.raiseHalt r a d b).wram = s.wram := rfl
@[simp] theorem raiseHalt_ntram (r : HaltReason) (a : Addr) (d : Byte) (b : Option Nat) : (s.raiseHalt r a d b).ntram = s.ntram := rfl
@[simp] theorem raiseHalt_ntramExt (r : HaltReason) (a : Addr) (d : Byte) (b : Option Nat) : (s.raiseHalt r a d b).ntramExt = s.ntramExt := rfl
@[simp] theorem raiseHalt_cartRam (r : HaltReason) (a : Addr) (d : Byte) (b : Option Nat) : (s.raiseHalt r a d b).cartRam = s.cartRam := rfl
@[simp] theorem raiseHalt_patRam (r : HaltReason) (a : Addr) (d : Byte) (b : Option Nat) : (s.raiseHalt r a d b).patRam = s.patRam := rfl
@[simp] theorem raiseHalt_stepCount (r : HaltReason) (a : Addr) (d : Byte) (b : Option Nat) : (s.raiseHalt r a d b).stepCount = s.stepCount := rfl
@[simp] theorem raiseHalt_env (r : HaltReason) (a : Addr) (d : Byte) (b : Option Nat) : (s.raiseHalt r a d b).env = s.env := rfl
@[simp] theorem raiseHalt_events (r : HaltReason) (a : Addr) (d : Byte) (b : Option Nat) : (s.raiseHalt r a d b).events = s.events := rfl

end Sys2Proof.Machine
end

