-- ==== Sys2Proof/Laws/Ops.lean ====
section
/-! SUPPORT. What a bus read and a bus write can do, the stack, and taking and leaving an interrupt. -/

namespace Sys2Proof.Machine

/-! ## Reads -/

/-- Everything a bus read leaves unchanged: it can change `vblank`, `w`, `rdbuf` and `v` of the
Picture Generator, the environment and the history. -/
structure ReadFrame (s t : State) : Prop where
  cfg : t.cfg = s.cfg
  cpu : t.cpu = s.cpu
  mapper : t.mapper = s.mapper
  wram : t.wram = s.wram
  ntram : t.ntram = s.ntram
  ntramExt : t.ntramExt = s.ntramExt
  cartRam : t.cartRam = s.cartRam
  patRam : t.patRam = s.patRam
  stepCount : t.stepCount = s.stepCount
  ppu : t.ppu = { s.ppu with vblank := t.ppu.vblank, w := t.ppu.w, rdbuf := t.ppu.rdbuf, v := t.ppu.v }

theorem ReadFrame.refl (s : State) : ReadFrame s s := by constructor <;> rfl

theorem ReadFrame.trans {s t u : State} (h : ReadFrame s t) (k : ReadFrame t u) : ReadFrame s u where
  cfg := k.cfg.trans h.cfg
  cpu := k.cpu.trans h.cpu
  mapper := k.mapper.trans h.mapper
  wram := k.wram.trans h.wram
  ntram := k.ntram.trans h.ntram
  ntramExt := k.ntramExt.trans h.ntramExt
  cartRam := k.cartRam.trans h.cartRam
  patRam := k.patRam.trans h.patRam
  stepCount := k.stepCount.trans h.stepCount
  ppu := by rw [k.ppu, h.ppu]

theorem dataRead_frame (s : State) : ReadFrame s (dataRead s).2 := by
  simp only [dataRead]
  split <;> constructor <;> rfl

theorem ppuRegRead_frame (port : Nat) (s : State) : ReadFrame s (ppuRegRead port s).2 := by
  unfold ppuRegRead
  split
  · constructor <;> rfl
  · exact ReadFrame.refl s
  · exact dataRead_frame s
  · exact ReadFrame.refl s

theorem busRead_frame (a : Addr) (s : State) : ReadFrame s (busRead a s).2 := by
  unfold busRead
  split
  · exact ReadFrame.refl s
  split
  · exact ppuRegRead_frame _ s
  split
  · exact ReadFrame.refl s
  split
  · constructor <;> rfl
  split
  · exact ReadFrame.refl s
  · exact ReadFrame.refl s

@[simp] theorem busRead_cpu (a : Addr) (s : State) : (busRead a s).2.cpu = s.cpu := (busRead_frame a s).cpu
@[simp] theorem busRead_cfg (a : Addr) (s : State) : (busRead a s).2.cfg = s.cfg := (busRead_frame a s).cfg
@[simp] theorem busRead_mapper (a : Addr) (s : State) : (busRead a s).2.mapper = s.mapper :=
  (busRead_frame a s).mapper
@[simp] theorem busRead_wram (a : Addr) (s : State) : (busRead a s).2.wram = s.wram := (busRead_frame a s).wram
@[simp] theorem busRead_ntram (a : Addr) (s : State) : (busRead a s).2.ntram = s.ntram :=
  (busRead_frame a s).ntram
@[simp] theorem busRead_ntramExt (a : Addr) (s : State) : (busRead a s).2.ntramExt = s.ntramExt :=
  (busRead_frame a s).ntramExt
@[simp] theorem busRead_cartRam (a : Addr) (s : State) : (busRead a s).2.cartRam = s.cartRam :=
  (busRead_frame a s).cartRam
@[simp] theorem busRead_patRam (a : Addr) (s : State) : (busRead a s).2.patRam = s.patRam :=
  (busRead_frame a s).patRam
@[simp] theorem busRead_stepCount (a : Addr) (s : State) : (busRead a s).2.stepCount = s.stepCount :=
  (busRead_frame a s).stepCount

/-- A read with no side effect leaves the state as it is (R88). -/
theorem busRead_quiet {a : Addr} (h : ¬ readHasEffect a) (s : State) : (busRead a s).2 = s := by
  simp only [readHasEffect, isPort, isIo, not_or] at h
  unfold busRead
  split
  · rfl
  split
  · next h1 h2 =>
    unfold ppuRegRead
    split <;> first | rfl | omega
  split
  · rfl
  split
  · omega
  split <;> rfl

/-- A read of plain memory gives the byte `peek` shows and changes nothing. -/
theorem busRead_peek {a : Addr} {s : State} {b : Byte} (h : s.peek a = some b) : busRead a s = (b, s) := by
  unfold State.peek at h
  unfold busRead
  split at h
  · next h1 => rw [if_pos h1]; simpa using h
  · next h1 =>
    rw [if_neg h1]
    split at h
    · next h2 =>
      rw [if_neg (by omega), if_neg (by omega), if_neg (by omega), if_neg (by omega)]
      simp [cartRead, mapCpuAddress, h2] at h ⊢
      exact h
    · next h2 =>
      split at h
      · next h3 =>
        rw [if_neg (by omega), if_neg (by omega), if_neg (by omega), if_neg (by omega)]
        simp [cartRead, mapCpuAddress, h2, h3] at h ⊢
        exact h
      · simp at h

theorem ReadFrame.peek {s t : State} (h : ReadFrame s t) (a : Addr) : t.peek a = s.peek a := by
  simp only [State.peek, h.cfg, h.mapper, h.wram, h.cartRam]

theorem ReadFrame.sameStore {s t : State} (h : ReadFrame s t) : SameStore s t where
  cfg := h.cfg
  mapper := h.mapper
  wram := h.wram
  cartRam := h.cartRam
  ntram := h.ntram
  ntramExt := h.ntramExt
  patRam := h.patRam
  oam := by rw [h.ppu]
  palette := by rw [h.ppu]
  bytes := h.peek

theorem readPointer_frame (lo hi : Addr) (s : State) : ReadFrame s (readPointer lo hi s).2 :=
  (busRead_frame lo s).trans (busRead_frame hi _)

/-! ## Page 0 and the stack page -/

theorem zeroPage_toNat (z : Byte) : (zeroPage z).toNat = z.toNat := by
  have := z.isLt
  simp [zeroPage]; omega

theorem stackAddr_toNat (z : Byte) : (stackAddr z).toNat = 256 + z.toNat := by
  have := z.isLt
  simp only [stackAddr, word16, BitVec.toNat_append]
  rw [← Nat.shiftLeft_add_eq_or_of_lt z.isLt]
  rfl

theorem busRead_wramAddr {a : Addr} (h : a.toNat < 2048) (s : State) :
    busRead a s = (s.wram.read a.toNat, s) := by
  rw [busRead, if_pos (by omega), Nat.mod_eq_of_lt h]

theorem busWrite_wramAddr {a : Addr} (h : a.toNat < 2048) (d : Byte) (s : State) :
    busWrite a d s = { s with wram := s.wram.write a.toNat d } := by
  rw [busWrite, if_pos (by omega), Nat.mod_eq_of_lt h]

@[simp] theorem busRead_zeroPage (z : Byte) (s : State) :
    busRead (zeroPage z) s = (s.wram.read z.toNat, s) := by
  have := z.isLt
  rw [busRead_wramAddr (by rw [zeroPage_toNat]; omega), zeroPage_toNat]

@[simp] theorem zeroPagePointer_eq (z : Byte) (s : State) : zeroPagePointer z s =
    (word16 (s.wram.read z.toNat) (s.wram.read (z + 1).toNat), s) := by
  simp [zeroPagePointer, readPointer]

/-- A push writes one cell of page 1 and moves `S` (R175). -/
theorem push_eq (d : Byte) (s : State) :
    push d s = { s with wram := s.wram.write (256 + s.cpu.s.toNat) d
                        cpu := { s.cpu with s := s.cpu.s - 1 } } := by
  have := s.cpu.s.isLt
  rw [push, busWrite_wramAddr (by rw [stackAddr_toNat]; omega), stackAddr_toNat]
  rfl

/-- A pull reads one cell of page 1 and moves `S` (R176). -/
theorem pull_eq (s : State) :
    pull s = (s.wram.read (256 + (s.cpu.s + 1).toNat), s.setS (s.cpu.s + 1)) := by
  have := (s.cpu.s + 1).isLt
  rw [pull, busRead_wramAddr (by rw [stackAddr_toNat]; omega), stackAddr_toNat]
  rfl

/-- Reading a vector has no side effect: both bytes lie in the program window (R79). -/
theorem readPointer_window {v : Addr} (h : 0x8000 ≤ v.toNat) (h' : v.toNat < 0xFFFF) (s : State) :
    readPointer v (v + 1) s =
      (word16 (prgWin s.cfg s.mapper (v.toNat - 0x8000)) (prgWin s.cfg s.mapper (v.toNat + 1 - 0x8000)), s) := by
  have h1 : (v + 1).toNat = v.toNat + 1 := by
    rw [BitVec.toNat_add]; simp; omega
  have e1 : s.peek v = some (prgWin s.cfg s.mapper (v.toNat - 0x8000)) := by
    rw [State.peek, if_neg (by omega), if_pos h]
  have e2 : s.peek (v + 1) = some (prgWin s.cfg s.mapper (v.toNat + 1 - 0x8000)) := by
    rw [State.peek, h1, if_neg (by omega), if_pos (by omega)]
  rw [readPointer, busRead_peek e1, busRead_peek e2]

/-- Everything that taking an interrupt does (R275, R535): three bytes of page 1, `S`, `I`, `pc`. -/
theorem enterInterrupt_eq (ret : Addr) (st : Byte) {vec : Addr} (h : 0x8000 ≤ vec.toNat)
    (h' : vec.toNat < 0xFFFF) (s : State) :
    enterInterrupt ret st vec s =
      { s with
        wram := ((s.wram.write (256 + s.cpu.s.toNat) (hiByte ret)).write
                  (256 + (s.cpu.s - 1).toNat) (loByte ret)).write (256 + (s.cpu.s - 1 - 1).toNat) st
        cpu := { s.cpu with
          s := s.cpu.s - 1 - 1 - 1
          p := setFlag .intDisable true s.cpu.p
          pc := word16 (prgWin s.cfg s.mapper (vec.toNat - 0x8000))
                       (prgWin s.cfg s.mapper (vec.toNat + 1 - 0x8000)) } } := by
  simp only [enterInterrupt, push_eq, readPointer_window h h']
  rfl

/-- Everything that returning from an interrupt does (R274). -/
theorem returnFromInterrupt_eq (s : State) :
    returnFromInterrupt s =
      { s with cpu := { s.cpu with
          s := s.cpu.s + 1 + 1 + 1
          p := pulledStatus (s.wram.read (256 + (s.cpu.s + 1).toNat))
          pc := word16 (s.wram.read (256 + (s.cpu.s + 1 + 1).toNat))
                       (s.wram.read (256 + (s.cpu.s + 1 + 1 + 1).toNat)) } } := by
  simp only [returnFromInterrupt, pull_eq]
  rfl

/-! ## Writes -/

/-- Everything a bus write leaves unchanged: of the Processor it can change only the halted flag
and its record; the configuration, the step count, the grid position, the pipelines and the
framebuffer stay. -/
structure WriteFrame (s t : State) : Prop where
  cfg : t.cfg = s.cfg
  cpu : t.cpu = { s.cpu with halted := t.cpu.halted, haltInfo := t.cpu.haltInfo }
  stepCount : t.stepCount = s.stepCount
  ppu : t.ppu = { s.ppu with
    v := t.ppu.v, t := t.ppu.t, fineX := t.ppu.fineX, w := t.ppu.w, ctrl := t.ppu.ctrl,
    mask := t.ppu.mask, vblank := t.ppu.vblank, oamAddr := t.ppu.oamAddr, rdbuf := t.ppu.rdbuf,
    oam := t.ppu.oam, palette := t.ppu.palette }

theorem WriteFrame.refl (s : State) : WriteFrame s s := by constructor <;> rfl

theorem WriteFrame.trans {s t u : State} (h : WriteFrame s t) (k : WriteFrame t u) : WriteFrame s u where
  cfg := k.cfg.trans h.cfg
  cpu := by rw [k.cpu, h.cpu]
  stepCount := k.stepCount.trans h.stepCount
  ppu := by rw [k.ppu, h.ppu]

theorem ReadFrame.toWrite {s t : State} (h : ReadFrame s t) : WriteFrame s t where
  cfg := h.cfg
  cpu := by rw [h.cpu]
  stepCount := h.stepCount
  ppu := by rw [h.ppu]

theorem setMapper_writeFrame (m : Mapper) (s : State) : WriteFrame s (s.setMapper m) := by
  constructor <;> rfl

/-- What committing bank registers does (R457): either the new registers, or the kept ones and a
halt that names an offending bank. -/
theorem commitBanks_cases (a : Addr) (d : Byte) (m0 m1 : Mapper) (s : State) :
    (failingBanks s.cfg m1 = [] ∧ commitBanks a d m0 m1 s = s.setMapper m1) ∨
    (failingBanks s.cfg m1 ≠ [] ∧ commitBanks a d m0 m1 s =
      (s.setMapper m0).raiseHalt .mapperFault a d (reportedBank (failingBanks s.cfg m1))) := by
  unfold commitBanks
  split
  · next h => exact .inl ⟨h, rfl⟩
  · next h => exact .inr ⟨h, rfl⟩

theorem commitBanks_writeFrame (a : Addr) (d : Byte) (m0 m1 : Mapper) (s : State) :
    WriteFrame s (commitBanks a d m0 m1 s) := by
  rcases commitBanks_cases a d m0 m1 s with ⟨-, h⟩ | ⟨-, h⟩ <;> rw [h] <;> constructor <;> rfl

theorem serialShift_writeFrame (a : Addr) (d : Byte) (s : State) : WriteFrame s (serialShift a d s) := by
  simp only [serialShift]
  split
  · exact commitBanks_writeFrame ..
  · exact setMapper_writeFrame _ _

theorem serialWrite_writeFrame (a : Addr) (d : Byte) (s : State) : WriteFrame s (serialWrite a d s) := by
  simp only [serialWrite]
  split
  · exact setMapper_writeFrame _ s
  split
  · exact (setMapper_writeFrame _ s).trans (commitBanks_writeFrame ..)
  · exact (setMapper_writeFrame _ s).trans (serialShift_writeFrame ..)

theorem scanWrite_writeFrame (a : Addr) (d : Byte) (s : State) : WriteFrame s (scanWrite a d s) := by
  simp only [scanWrite]
  split <;> first | exact commitBanks_writeFrame .. | exact setMapper_writeFrame ..

theorem writeRegister_writeFrame (a : Addr) (d : Byte) (s : State) :
    WriteFrame s (writeRegister a d s) := by
  unfold writeRegister
  split
  · exact WriteFrame.refl s
  · exact serialWrite_writeFrame a d s
  · exact scanWrite_writeFrame a d s

theorem ppuWrite_writeFrame (a : PAddr) (d : Byte) (s : State) : WriteFrame s (ppuWrite a d s) := by
  unfold ppuWrite
  split
  · split <;> constructor <;> rfl
  split
  · split <;> constructor <;> rfl
  · constructor <;> rfl

theorem dataWrite_writeFrame (d : Byte) (s : State) : WriteFrame s (dataWrite d s) :=
  (ppuWrite_writeFrame _ d s).trans (by constructor <;> rfl)

theorem ppuRegWrite_writeFrame (port : Nat) (d : Byte) (s : State) :
    WriteFrame s (ppuRegWrite port d s) := by
  unfold ppuRegWrite
  split
  · constructor <;> rfl
  · constructor <;> rfl
  · constructor <;> rfl
  · constructor <;> rfl
  · constructor <;> (try rfl)
    simp only [State.mapPpu, Ppu.writeScroll]; split <;> rfl
  · constructor <;> (try rfl)
    simp only [State.mapPpu, Ppu.writeAddress]; split <;> rfl
  · exact dataWrite_writeFrame d s
  · exact WriteFrame.refl s

theorem dmaByte_writeFrame (page : Byte) (s : State) (i : Nat) : WriteFrame s (dmaByte page s i) :=
  (busRead_frame _ s).toWrite.trans (by constructor <;> rfl)

theorem objectDma_writeFrame (page : Byte) (s : State) : WriteFrame s (objectDma page s) := by
  unfold objectDma
  generalize List.range 256 = l
  induction l generalizing s with
  | nil => exact WriteFrame.refl s
  | cons i l ih => exact (dmaByte_writeFrame page s i).trans (ih _)

theorem cartWrite_writeFrame (a : Addr) (d : Byte) (s : State) : WriteFrame s (cartWrite a d s) := by
  unfold cartWrite
  split
  · exact writeRegister_writeFrame a d s
  split
  · constructor <;> rfl
  · exact WriteFrame.refl s

theorem busWrite_frame (a : Addr) (d : Byte) (s : State) : WriteFrame s (busWrite a d s) := by
  unfold busWrite
  split
  · constructor <;> rfl
  split
  · exact ppuRegWrite_writeFrame _ d s
  split
  · exact objectDma_writeFrame d s
  split
  · constructor <;> rfl
  split
  · exact WriteFrame.refl s
  · exact cartWrite_writeFrame a d s

@[simp] theorem busWrite_cfg (a : Addr) (d : Byte) (s : State) : (busWrite a d s).cfg = s.cfg :=
  (busWrite_frame a d s).cfg

@[simp] theorem busWrite_stepCount (a : Addr) (d : Byte) (s : State) :
    (busWrite a d s).stepCount = s.stepCount := (busWrite_frame a d s).stepCount

/-- Of the Processor a bus write changes only the halted flag and its record. -/
theorem busWrite_cpu (a : Addr) (d : Byte) (s : State) : (busWrite a d s).cpu =
    { s.cpu with halted := (busWrite a d s).cpu.halted, haltInfo := (busWrite a d s).cpu.haltInfo } :=
  (busWrite_frame a d s).cpu

/-- A write below the Mapper's registers never halts. -/
theorem busWrite_cpu_low {a : Addr} (h : a.toNat < 0x8000) (d : Byte) (s : State) :
    (busWrite a d s).cpu = s.cpu := by
  unfold busWrite
  split
  · rfl
  split
  · unfold ppuRegWrite
    split <;> (try rfl)
    simp only [dataWrite, ppuWrite]
    split
    · split <;> rfl
    split
    · split <;> rfl
    · rfl
  split
  · unfold objectDma
    generalize List.range 256 = l
    induction l generalizing s with
    | nil => rfl
    | cons i l ih => rw [List.foldl_cons, ih]; simp [dmaByte]
  split
  · rfl
  split
  · rfl
  · rw [cartWrite, if_neg (by omega)]
    split <;> rfl

/-- A write to a RAM address changes exactly that cell (R72, R73). -/
theorem peek_busWrite_ram {a : Addr} (h : isRam a) (d : Byte) (s : State) (b : Addr) :
    (busWrite a d s).peek b = if sameCell a b then some d else s.peek b := by
  rcases h with h | ⟨h1, h2⟩
  · rw [busWrite, if_pos h]
    simp only [State.peek, Memory.read_write]
    by_cases hb : b.toNat < 0x2000
    · rw [if_pos hb, if_pos hb]
      by_cases hc : b.toNat % 2048 = a.toNat % 2048
      · rw [if_pos hc, if_pos (Or.inr ⟨h, hb, hc.symm⟩)]
      · rw [if_neg hc, if_neg]
        rintro (rfl | ⟨-, -, h3⟩)
        · exact hc rfl
        · exact hc h3.symm
    · have hns : ¬ sameCell a b := by
        rintro (rfl | ⟨-, h3, -⟩)
        · exact hb h
        · exact hb h3
      simp only [if_neg hb, if_neg hns]
  · rw [busWrite, if_neg (by omega), if_neg (by omega), if_neg (by omega), if_neg (by omega),
      if_neg (by omega), cartWrite, if_neg (by omega), if_pos h1]
    simp only [State.peek, Memory.read_write]
    by_cases hb : b.toNat < 0x2000
    · rw [if_pos hb, if_pos hb, if_neg]
      rintro (rfl | ⟨h3, -, -⟩) <;> omega
    · rw [if_neg hb, if_neg hb]
      by_cases hb2 : 0x8000 ≤ b.toNat
      · rw [if_pos hb2, if_pos hb2, if_neg]
        rintro (rfl | ⟨h3, -, -⟩) <;> omega
      · rw [if_neg hb2, if_neg hb2]
        by_cases hb3 : 0x6000 ≤ b.toNat
        · rw [if_pos hb3, if_pos hb3]
          by_cases hc : b.toNat = a.toNat
          · rw [if_pos (by omega), if_pos (Or.inl (BitVec.eq_of_toNat_eq hc.symm))]
          · rw [if_neg (by omega), if_neg]
            rintro (rfl | ⟨h3, -, -⟩)
            · exact hc rfl
            · omega
        · rw [if_neg hb3, if_neg hb3, if_neg]
          rintro (rfl | ⟨h3, -, -⟩) <;> omega

/-- A write outside RAM leaves both RAM arrays. -/
theorem busWrite_keeps_ram {a : Addr} (h : ¬ isRam a) (d : Byte) (s : State) :
    (busWrite a d s).wram = s.wram ∧ (busWrite a d s).cartRam = s.cartRam := by
  simp only [isRam, not_or, not_and] at h
  have hreg : ∀ s : State, (writeRegister a d s).wram = s.wram ∧ (writeRegister a d s).cartRam = s.cartRam := by
    intro s
    have hc : ∀ (m0 m1 : Mapper) (s : State), (commitBanks a d m0 m1 s).wram = s.wram ∧
        (commitBanks a d m0 m1 s).cartRam = s.cartRam := by
      intro m0 m1 s
      rcases commitBanks_cases a d m0 m1 s with ⟨-, h⟩ | ⟨-, h⟩ <;> rw [h] <;> exact ⟨rfl, rfl⟩
    unfold writeRegister
    split
    · exact ⟨rfl, rfl⟩
    · simp only [serialWrite]
      split
      · exact ⟨rfl, rfl⟩
      split
      · exact hc ..
      · simp only [serialShift]
        split
        · exact hc ..
        · exact ⟨rfl, rfl⟩
    · simp only [scanWrite]
      split <;> first | exact hc .. | exact ⟨rfl, rfl⟩
  unfold busWrite
  split
  · omega
  split
  · unfold ppuRegWrite
    split <;> (try exact ⟨rfl, rfl⟩)
    simp only [dataWrite, ppuWrite]
    split
    · split <;> exact ⟨rfl, rfl⟩
    split
    · split <;> exact ⟨rfl, rfl⟩
    · exact ⟨rfl, rfl⟩
  split
  · unfold objectDma
    generalize List.range 256 = l
    induction l generalizing s with
    | nil => exact ⟨rfl, rfl⟩
    | cons i l ih =>
      rw [List.foldl_cons]
      have := ih (dmaByte d s i)
      simpa [dmaByte] using this
  split
  · exact ⟨rfl, rfl⟩
  split
  · exact ⟨rfl, rfl⟩
  · unfold cartWrite
    split
    · exact hreg s
    split
    · omega
    · exact ⟨rfl, rfl⟩

/-- A write below the Mapper's registers leaves the Mapper. -/
theorem busWrite_mapper_low {a : Addr} (h : a.toNat < 0x8000) (d : Byte) (s : State) :
    (busWrite a d s).mapper = s.mapper := by
  unfold busWrite
  split
  · rfl
  split
  · unfold ppuRegWrite
    split <;> (try rfl)
    simp only [dataWrite, ppuWrite]
    split
    · split <;> rfl
    split
    · split <;> rfl
    · rfl
  split
  · unfold objectDma
    generalize List.range 256 = l
    induction l generalizing s with
    | nil => rfl
    | cons i l ih => rw [List.foldl_cons, ih]; simp [dmaByte]
  split
  · rfl
  split
  · rfl
  · rw [cartWrite, if_neg (by omega)]
    split <;> rfl

/-- A write outside RAM changes no byte of RAM, and no byte at all below the Mapper's registers. -/
theorem peek_busWrite_device {a : Addr} (h : ¬ isRam a) (d : Byte) (s : State) (b : Addr)
    (hb : b.toNat < 0x8000 ∨ a.toNat < 0x8000) : (busWrite a d s).peek b = s.peek b := by
  have hr := busWrite_keeps_ram h d s
  simp only [State.peek, hr.1, hr.2, busWrite_cfg]
  by_cases h8 : 0x8000 ≤ b.toNat
  · rw [busWrite_mapper_low (by omega)]
  · rw [if_neg h8, if_neg h8]

/-- A nonempty list of failing banks reports one of them. -/
theorem reportedBank_some {bs : List Nat} (h : bs ≠ []) : ∃ n ∈ bs, reportedBank bs = some n := by
  match bs, h with
  | [b], _ => exact ⟨b, List.mem_singleton.mpr rfl, rfl⟩
  | b :: c :: l, _ =>
    have hlt : Config.faultRegion (b :: c :: l) % (b :: c :: l).length < (b :: c :: l).length :=
      Nat.mod_lt _ (by simp)
    exact ⟨_, List.getElem_mem hlt, List.getElem?_eq_getElem hlt⟩

/-- Everything a Mapper register write can do: new Mapper registers, or a Mapper fault that leaves
every bank register and the mirroring (R457). -/
theorem writeRegister_cases (a : Addr) (d : Byte) (s : State) :
    (∃ m, writeRegister a d s = s.setMapper m) ∨
    (∃ n r c l, writeRegister a d s = (s.setMapper { s.mapper with serial := { s.mapper.serial with
      sr := r, srCount := c, lastWrite := l } }).raiseHalt .mapperFault a d (some n)) := by
  have key : ∀ (m0 m1 : Mapper) (u : State), (∃ m, u = s.setMapper m) →
      (∃ r c l, m0 = { s.mapper with serial := { s.mapper.serial with
        sr := r, srCount := c, lastWrite := l } }) →
      (∃ m, commitBanks a d m0 m1 u = s.setMapper m) ∨
      (∃ n r c l, commitBanks a d m0 m1 u = (s.setMapper { s.mapper with serial :=
        { s.mapper.serial with sr := r, srCount := c, lastWrite := l } }).raiseHalt
          .mapperFault a d (some n)) := by
    rintro m0 m1 u ⟨m, rfl⟩ ⟨r, c, l, rfl⟩
    rcases commitBanks_cases a d _ m1 (s.setMapper m) with ⟨-, h⟩ | ⟨hb, h⟩
    · exact .inl ⟨m1, h⟩
    · obtain ⟨n, -, hn⟩ := reportedBank_some hb
      exact .inr ⟨n, r, c, l, by rw [h, hn]; rfl⟩
  unfold writeRegister
  split
  · exact .inl ⟨s.mapper, rfl⟩
  · simp only [serialWrite]
    split
    · exact .inl ⟨_, rfl⟩
    split
    · exact key _ _ _ ⟨_, rfl⟩ ⟨_, _, _, rfl⟩
    · simp only [serialShift]
      split
      · exact key _ _ _ ⟨_, rfl⟩ ⟨_, _, _, rfl⟩
      · exact .inl ⟨_, rfl⟩
  · simp only [scanWrite]
    split <;> first
      | exact .inl ⟨_, rfl⟩
      | exact key _ _ _ ⟨s.mapper, rfl⟩ ⟨_, _, _, rfl⟩

/-- A bus write from a running Processor leaves every Processor register, or is a Mapper fault. -/
theorem busWrite_cases (a : Addr) (d : Byte) (s : State) :
    (busWrite a d s).cpu = s.cpu ∨
    (0x8000 ≤ a.toNat ∧ ∃ n r c l, busWrite a d s = (s.setMapper { s.mapper with serial :=
      { s.mapper.serial with sr := r, srCount := c, lastWrite := l } }).raiseHalt
        .mapperFault a d (some n)) := by
  by_cases hw : a.toNat < 0x8000
  · exact .inl (busWrite_cpu_low hw d s)
  · rw [busWrite, if_neg (by omega), if_neg (by omega), if_neg (by omega), if_neg (by omega),
      if_neg (by omega), cartWrite, if_pos (by omega)]
    rcases writeRegister_cases a d s with ⟨m, h⟩ | ⟨n, r, c, l, h⟩
    · exact .inl (by rw [h]; rfl)
    · exact .inr ⟨by omega, n, r, c, l, h⟩

/-- A bus write that does not halt leaves every Processor register. -/
theorem busWrite_cpu_running {a : Addr} {d : Byte} {s : State}
    (h : (busWrite a d s).cpu.halted = false) : (busWrite a d s).cpu = s.cpu := by
  rcases busWrite_cases a d s with h1 | ⟨-, n, r, c, l, h1⟩
  · exact h1
  · rw [h1] at h; cases h

/-- The program window looks the same when only the Serial variant's shift register or write time
differ. -/
theorem prgWin_serial (c : Config) (m : Mapper) (r : BitVec 5) (k : Nat) (l : Option Nat) (i : Nat) :
    prgWin c { m with serial := { m.serial with sr := r, srCount := k, lastWrite := l } } i =
      prgWin c m i := rfl

/-- A push changes exactly one cell of page 1 (R175). -/
theorem peek_push (d : Byte) (s : State) (a : Addr) :
    (push d s).peek a = if sameCell (stackAddr s.cpu.s) a then some d else s.peek a := by
  have hx := s.cpu.s.isLt
  exact peek_busWrite_ram (.inl (by rw [stackAddr_toNat]; omega)) d s a

end Sys2Proof.Machine
end

