-- ==== Sys2Proof/Laws/Ports.lean ====
section
/-! SUPPORT. The ports, the window and the Mapper registers: which operation an address reaches,
    and their arithmetic in whole numbers. -/

namespace Sys2Proof.Machine

/-- A read of a port address reaches that port (R76). -/
theorem busRead_port {a : Addr} {p : Nat} (h : isPort a p) (s : State) : busRead a s =
    ppuRegRead p s := by
  unfold busRead
  rw [if_neg (by have := h.1; omega), if_pos h.2.1, h.2.2]

/-- A write of a port address reaches that port (R76). -/
theorem busWrite_port {a : Addr} {p : Nat} (h : isPort a p) (d : Byte) (s : State) :
    busWrite a d s = ppuRegWrite p d s := by
  unfold busWrite
  rw [if_neg (by have := h.1; omega), if_pos h.2.1, h.2.2]

/-- A write of the window is a Mapper register write (R81). -/
theorem busWrite_window {a : Addr} (h : 0x8000 ≤ a.toNat) (d : Byte) (s : State) :
    busWrite a d s = writeRegister a d s := by
  unfold busWrite cartWrite
  rw [if_neg (by omega), if_neg (by omega), if_neg (by omega), if_neg (by omega),
      if_neg (by omega), if_pos h]

/-- What plain memory holds depends on the RAMs and the program window only. -/
theorem peek_congr {s t : State} (h1 : t.wram = s.wram) (h2 : t.cartRam = s.cartRam)
    (h3 : ∀ i, prgWin t.cfg t.mapper i = prgWin s.cfg s.mapper i) (a : Addr) : t.peek a =
        s.peek a := by
  unfold State.peek
  rw [h1, h2, h3]

/-- The data port increment (R426). -/
theorem incV_eq (p : Ppu) : p.incV =
    { p with v := BitVec.ofNat 15 (p.v.toNat + if p.ctrl.getLsbD 2 then 32 else 1) } := by
  unfold Ppu.incV
  have : p.v + (if p.ctrl[2] then 32 else 1) =
      BitVec.ofNat 15 (p.v.toNat + if p.ctrl.getLsbD 2 then 32 else 1) := by
    apply BitVec.eq_of_toNat_eq
    rw [BitVec.getLsbD_eq_getElem (by decide)]
    cases p.ctrl[2] <;> simp [BitVec.toNat_add]
  rw [this]

/-- The mirroring map (R97). -/
theorem physicalNametable_eq (mir : Mirror) (q : Nat) : physicalNametable mir q =
    nametableOf mir q := by cases mir <;> rfl

/-- The palette map (R98). -/
theorem palIndex_toNat : ∀ a : PAddr, (palIndex a).toNat = paletteCellAt a := by
  intro a
  have key : ∀ i : BitVec 5, (if i = 16 ∨ i = 20 ∨ i = 24 ∨ i = 28 then i - 16 else i).toNat =
      if i.toNat = 16 ∨ i.toNat = 20 ∨ i.toNat = 24 ∨ i.toNat =
          28 then i.toNat - 16 else i.toNat := by decide
  unfold palIndex paletteCellAt
  simp only
  rw [key]
  have : (a.extractLsb' 0 5).toNat = a.toNat % 32 := by simp [BitVec.extractLsb'_toNat]
  rw [this]

/-- The status byte (R416). -/
theorem statusByte_toNat (p : Ppu) : p.statusByte.toNat =
    128 * p.vblank.toNat + 64 * p.spr0hit.toNat + 32 * p.sprovf.toNat := by
  unfold Ppu.statusByte
  cases p.vblank <;> cases p.spr0hit <;> cases p.sprovf <;> decide

theorem dmaAddr_eq (page : Byte) {i : Nat} (h : i < 256) : (word16 (BitVec.ofNat 8 i) page) =
    BitVec.ofNat 16 (256 * page.toNat + i) := by
  apply BitVec.eq_of_toNat_eq
  have := page.isLt
  rw [word16_toNat]
  simp
  omega

theorem dmaByte_oamAddr (page : Byte) (s : State) (i : Nat) : (dmaByte page s i).ppu.oamAddr =
    s.ppu.oamAddr := by
  show ((busRead _ s).2.ppu).oamAddr = _
  rw [(busRead_frame _ s).ppu]

theorem dmaByte_cpu (page : Byte) (s : State) (i : Nat) : (dmaByte page s i).cpu = s.cpu := by
  show ((busRead _ s).2.cpu) = _
  rw [(busRead_frame _ s).cpu]

/-- The spacing test, as a claim says it (R471). -/
theorem serialIgnores_iff (s : State) :
    serialIgnores s.cfg s.stepCount s.mapper.serial.lastWrite = true ↔ tooSoon s := by
  unfold serialIgnores tooSoon
  cases s.mapper.serial.lastWrite with
  | none => simp
  | some k => simp

theorem shiftRegister_toNat : ∀ (r : BitVec 5) (b : Bool), ((r >>> 1) ||| (bit 5 b <<< 4)).toNat =
    r.toNat / 2 + 16 * b.toNat := by decide

theorem serialMirror_eq (c : Config) (v : BitVec 5) : serialMirror c v =
    controlMirror c v.toNat := by
  unfold serialMirror controlMirror
  have : (v.extractLsb' 0 2).toNat = v.toNat % 4 := by simp [BitVec.extractLsb'_toNat]
  rw [this]
  have : v.toNat % 4 < 4 := Nat.mod_lt _ (by decide)
  split
  · rfl
  · generalize v.toNat % 4 = k at *
    match k, this with
    | 0, _ => rfl
    | 1, _ => rfl
    | 2, _ => rfl
    | 3, _ => rfl

/-- Committing bank registers, as a claim says it (R457). -/
theorem commitBanks_committed {a : Addr} {d : Byte} {m0 m1 : Mapper} {s : State} :
    Committed a d m1 { s with mapper := m0 } (commitBanks a d m0 m1 s) := by
  rcases commitBanks_cases a d m0 m1 s with ⟨h, e⟩ | ⟨h, e⟩
  · exact .inl ⟨h, e⟩
  · obtain ⟨n, hm, hn⟩ := reportedBank_some h
    exact .inr ⟨h, n, hm, by rw [e, hn]; rfl⟩

/-- The least power of two above a power of two is itself (R456). -/
theorem leastPow2_pow (k : Nat) : leastPow2 (2^k) = 2^k := by
  unfold leastPow2
  cases k with
  | zero => rfl
  | succ k =>
    have h1 : 1 ≤ 2^k := Nat.one_le_two_pow
    have h2 : 2^(k+1) = 2 * 2^k := by rw [Nat.pow_succ]; omega
    rw [if_neg (by omega)]
    congr 1
    have : Nat.log2 (2^(k+1) - 1) = k := by
      have hne : 2^(k+1) - 1 ≠ 0 := by omega
      apply Nat.le_antisymm
      · have := (Nat.log2_lt hne (k := k+1)).mpr (by omega); omega
      · exact (Nat.le_log2 hne).mpr (by omega)
    rw [this]

/-- For a power of two, reduction is the remainder (R456). -/
theorem reduce_pow (b k : Nat) : reduce b (2^k) = some (b % 2^k) := by
  have : maskBank b (2^k) = b % 2^k := by unfold maskBank; rw [leastPow2_pow,
      Nat.and_two_pow_sub_one_eq_mod]
  unfold reduce
  rw [this, if_pos (Nat.mod_lt _ (Nat.two_pow_pos k))]

/-- Where no region fails, masking is reduction (R456). -/
theorem maskBank_lt {c : Config} {m : Mapper} (h : failingBanks c m = []) :
    ∀ r ∈ checkedRegions c m, maskBank r.1 r.2 < r.2 := by
  intro r hr
  unfold failingBanks at h
  rw [List.filterMap_eq_nil_iff] at h
  have := h r hr
  unfold reduce at this
  split at this
  · assumption
  · simp at this

end Sys2Proof.Machine
end

