-- ==== Sys2Proof/Laws/Banks.lean ====
section
/-! SUPPORT. Bank reduction in whole numbers, the bank each switchable slot shows, and the banks a refused register write names (R456, R457, R475, R476, R490, R491). -/

namespace Sys2Proof.Machine

/-! ## Reduction (R456) -/

/-- The least power of two that is at least `n`. -/
theorem leastPow2_eq {n k : Nat} (h1 : 1 ≤ n) (h : n ≤ 2 ^ k) (hk : ∀ j < k, 2 ^ j < n) :
    leastPow2 n = 2 ^ k := by
  unfold leastPow2
  split
  · cases k with
    | zero => rfl
    | succ k => have := hk 0 (by omega); simp at this; omega
  · cases k with
    | zero => simp at h; omega
    | succ k =>
      have hb := hk k (by omega)
      have hne : n - 1 ≠ 0 := by omega
      have e : Nat.log2 (n - 1) = k := by
        apply Nat.le_antisymm
        · have := (Nat.log2_lt hne (k := k + 1)).mpr (by omega); omega
        · exact (Nat.le_log2 hne).mpr (by omega)
      rw [e]

/-- Masking is the remainder by that power. -/
theorem maskBank_eq {n k : Nat} (h1 : 1 ≤ n) (h : n ≤ 2 ^ k) (hk : ∀ j < k, 2 ^ j < n) (b : Nat) :
    maskBank b n = b % 2 ^ k := by
  unfold maskBank
  rw [leastPow2_eq h1 h hk, Nat.and_two_pow_sub_one_eq_mod]

/-- A reduced bank number is the masked one, and below the count. -/
theorem reduce_some {b n i : Nat} (h : reduce b n = some i) : maskBank b n = i ∧ i < n := by
  unfold reduce at h
  split at h
  · next hh => cases h; exact ⟨rfl, hh⟩
  · cases h

/-! ## The switchable slots -/

theorem pairBank : ∀ p < 16, ∀ h < 2, (p &&& 0xE) ||| h = p / 2 * 2 + h := by decide

theorem pairBank5 : ∀ p < 32, ∀ h < 2, (p &&& 0x1E) ||| h = p / 2 * 2 + h := by decide

theorem evenBank : ∀ p < 256, p &&& 0xFE = p / 2 * 2 := by decide +kernel

theorem oddBank : ∀ p < 256, p ||| 1 = p / 2 * 2 + 1 := by decide +kernel

theorem layout_eq (r : SerialRegs) : r.layout = r.control.toNat / 4 % 4 := by
  unfold SerialRegs.layout; simp [BitVec.extractLsb'_toNat, Nat.shiftRight_eq_div_pow]

theorem prgBankLow_eq (r : SerialRegs) : (r.prgBank.extractLsb' 0 4).toNat = r.prgBank.toNat % 16 := by
  simp [BitVec.extractLsb'_toNat]

/-- The Serial variant's program bank of each half, by layout. -/
theorem serialPrgBank_eq (r : SerialRegs) (h : Nat) (hh : h < 2) : serialPrgBank r h =
    if r.control.toNat / 4 % 4 = 2 then if h = 0 then none else some (r.prgBank.toNat % 16)
    else if r.control.toNat / 4 % 4 = 3 then if h = 0 then some (r.prgBank.toNat % 16) else none
    else some (r.prgBank.toNat % 16 / 2 * 2 + h) := by
  unfold serialPrgBank
  rw [layout_eq, prgBankLow_eq]
  have hl : r.control.toNat / 4 % 4 < 4 := Nat.mod_lt _ (by decide)
  have e := pairBank (r.prgBank.toNat % 16) (Nat.mod_lt _ (by decide)) h hh
  generalize r.control.toNat / 4 % 4 = l at *
  match l, hl with
  | 0, _ => simp [e]
  | 1, _ => simp [e]
  | 2, _ => simp
  | 3, _ => simp

/-- The Serial variant's pattern bank of each half. -/
theorem serialChrBank_eq (r : SerialRegs) (h : Nat) (hh : h < 2) : serialChrBank r h =
    if r.control.getLsbD 4 then if h = 0 then r.chrBank0.toNat else r.chrBank1.toNat
    else r.chrBank0.toNat / 2 * 2 + h := by
  unfold serialChrBank
  rw [pairBank5 _ r.chrBank0.isLt h hh, ← BitVec.getLsbD_eq_getElem]

/-- The regions the check of R457 makes are the switchable slots. -/
theorem checkedRegions_eq (c : Config) (m : Mapper) :
    checkedRegions c m = (switchable c m).map fun r => (r.bank, r.count) := by
  have hb6 : m.scan.bankSelect.getLsbD 6 = m.scan.bankSelect[6] :=
    BitVec.getLsbD_eq_getElem (by decide)
  unfold checkedRegions switchable
  cases c.variant with
  | fixed => rfl
  | serial =>
    simp only [List.map_append]
    congr 1
    · rw [show List.range 2 = [0, 1] from rfl]
      simp only [List.filterMap_cons, List.filterMap_nil, serialPrgBank_eq _ 0 (by decide),
        serialPrgBank_eq _ 1 (by decide), serialProgram]
      by_cases h2 : m.serial.control.toNat / 4 % 4 = 2
      · simp [h2]
      · by_cases h3 : m.serial.control.toNat / 4 % 4 = 3
        · simp [h3]
        · simp [h2, h3]
    · split
      · rw [show List.range 2 = [0, 1] from rfl]
        simp only [List.map_cons, List.map_nil, serialChrBank_eq _ 0 (by decide),
          serialChrBank_eq _ 1 (by decide), serialPattern]
        by_cases h4 : m.serial.control.getLsbD 4 = true
        · simp [h4, -BitVec.getLsbD_eq_getElem]
        · simp [h4, -BitVec.getLsbD_eq_getElem]
      · rfl
  | scanline =>
    simp only [List.map_append]
    congr 1
    · rw [show List.range 4 = [0, 1, 2, 3] from rfl]
      simp only [List.filterMap_cons, List.filterMap_nil, scanPrgBank, scanProgram, hb6]
      by_cases h6 : m.scan.bankSelect[6] = true
      · simp [h6]
      · simp [h6]
    · split
      · rw [show List.range 8 = [0, 1, 2, 3, 4, 5, 6, 7] from rfl]
        simp only [List.map_cons, List.map_nil, scanChrBank, scanPattern,
          evenBank _ m.scan.bankReg[0].isLt, oddBank _ m.scan.bankReg[0].isLt,
          evenBank _ m.scan.bankReg[1].isLt, oddBank _ m.scan.bankReg[1].isLt]
      · rfl

/-- The banks of a failed check, by slot (R457). -/
theorem mem_failingBanks {c : Config} {m : Mapper} {n : Nat} : n ∈ failingBanks c m ↔
    ∃ r ∈ switchable c m, r.bank = n ∧ reduce r.bank r.count = none := by
  unfold failingBanks
  rw [checkedRegions_eq, List.mem_filterMap]
  simp only [List.mem_map]
  constructor
  · rintro ⟨_, ⟨r, hr, rfl⟩, h⟩
    cases hq : reduce r.bank r.count with
    | none => rw [hq] at h; simp at h; exact ⟨r, hr, h, hq⟩
    | some i => rw [hq] at h; simp at h
  · rintro ⟨r, hr, rfl, hq⟩
    exact ⟨_, ⟨r, hr, rfl⟩, by rw [hq]; rfl⟩

/-- Every switchable slot shows the reduced bank its registers name (R475, R476, R490, R491). -/
theorem slot_offset {c : Config} {m : Mapper} {r : Slot} (hr : r ∈ switchable c m) {i : Nat}
    (hi : reduce r.bank r.count = some i) {o : Nat} (ho : o < r.size) :
    (if r.pattern then chrOffset c m (r.size * r.index + o)
      else prgOffset c m (r.size * r.index + o)) = r.size * i + o := by
  have hm := (reduce_some hi).1
  unfold switchable at hr
  split at hr
  · cases hr
  · next hv =>
    rw [List.mem_append] at hr
    rcases hr with hr | hr
    · have key : ∀ h < 2, ∀ b, serialPrgBank m.serial h = some b → ∀ o < 16384,
          prgOffset c m (16384 * h + o) = 16384 * maskBank b c.prgBanks16 + o := by
        intro h hh b hb o ho
        unfold prgOffset
        simp only [hv]
        rw [show (16384 * h + o) / 16384 % 2 = h by omega, hb,
          show (16384 * h + o) % 16384 = o by omega]
      unfold serialProgram at hr
      have e0 := serialPrgBank_eq m.serial 0 (by decide)
      have e1 := serialPrgBank_eq m.serial 1 (by decide)
      split at hr
      · next hl =>
        simp only [hl, if_true] at e1
        simp only [List.mem_singleton] at hr; subst hr
        rw [if_neg Bool.false_ne_true, key 1 (by decide) _ e1 o ho, ← hm]
      · next hl2 =>
        split at hr
        · next hl =>
          simp only [hl] at e0
          simp only [List.mem_singleton] at hr; subst hr
          rw [if_neg Bool.false_ne_true, key 0 (by decide) _ e0 o ho, ← hm]
        · next hl3 =>
          rw [if_neg hl2, if_neg hl3] at e0 e1
          simp only [List.mem_cons, List.not_mem_nil, or_false] at hr
          rcases hr with rfl | rfl
          · rw [if_neg Bool.false_ne_true, key 0 (by decide) _ e0 o ho, ← hm]; rfl
          · rw [if_neg Bool.false_ne_true, key 1 (by decide) _ e1 o ho, ← hm]
    · split at hr
      · have key : ∀ h < 2, ∀ o < 4096, chrOffset c m (4096 * h + o) =
            4096 * maskBank (serialChrBank m.serial h) (2 * c.chrBanks8) + o := by
          intro h hh o ho
          unfold chrOffset
          simp only [hv]
          rw [show (4096 * h + o) / 4096 % 2 = h by omega, show (4096 * h + o) % 4096 = o by omega]
        unfold serialPattern at hr
        have e0 := serialChrBank_eq m.serial 0 (by decide)
        have e1 := serialChrBank_eq m.serial 1 (by decide)
        split at hr
        · next h4 =>
          simp only [h4, if_true] at e0 e1
          simp only [List.mem_cons, List.not_mem_nil, or_false] at hr
          rcases hr with rfl | rfl
          · rw [if_pos rfl, key 0 (by decide) o ho, e0, ← hm]
          · rw [if_pos rfl, key 1 (by decide) o ho, e1, ← hm]; rfl
        · next h4 =>
          rw [if_neg h4] at e0 e1
          simp only [List.mem_cons, List.not_mem_nil, or_false] at hr
          rcases hr with rfl | rfl
          · rw [if_pos rfl, key 0 (by decide) o ho, e0, ← hm]; rfl
          · rw [if_pos rfl, key 1 (by decide) o ho, e1, ← hm]
      · cases hr
  · next hv =>
    rw [List.mem_append] at hr
    rcases hr with hr | hr
    · have key : ∀ k < 4, ∀ b, scanPrgBank m.scan k = some b → ∀ o < 8192,
          prgOffset c m (8192 * k + o) = 8192 * maskBank b (2 * c.prgBanks16) + o := by
        intro k hk b hb o ho
        unfold prgOffset
        simp only [hv]
        rw [show (8192 * k + o) / 8192 % 4 = k by omega, hb, show (8192 * k + o) % 8192 = o by omega]
      unfold scanProgram at hr
      have hb6 : m.scan.bankSelect.getLsbD 6 = m.scan.bankSelect[6] :=
        BitVec.getLsbD_eq_getElem (by decide)
      rw [hb6] at hr
      split at hr
      · next h6 =>
        simp only [List.mem_cons, List.not_mem_nil, or_false] at hr
        rcases hr with rfl | rfl
        · rw [if_neg Bool.false_ne_true, key 1 (by decide) _ rfl o ho, ← hm]
        · rw [if_neg Bool.false_ne_true, key 2 (by decide) m.scan.bankReg[6].toNat
            (by simp only [scanPrgBank, if_pos h6]) o ho, ← hm]
      · next h6 =>
        simp only [List.mem_cons, List.not_mem_nil, or_false] at hr
        rcases hr with rfl | rfl
        · rw [if_neg Bool.false_ne_true, key 0 (by decide) m.scan.bankReg[6].toNat
            (by simp only [scanPrgBank, if_neg h6]) o ho, ← hm]
        · rw [if_neg Bool.false_ne_true, key 1 (by decide) _ rfl o ho, ← hm]
    · split at hr
      · have key : ∀ k < 8, ∀ o < 1024, chrOffset c m (1024 * (if m.scan.bankSelect.getLsbD 7 then
              (k + 4) % 8 else k) + o) =
            1024 * maskBank (scanChrBank m.scan k) (8 * c.chrBanks8) + o := by
          intro k hk o ho
          have hb7 : m.scan.bankSelect.getLsbD 7 = m.scan.bankSelect[7] :=
            BitVec.getLsbD_eq_getElem (by decide)
          have hx : ∀ k < 8, (k + 4) % 8 ^^^ 4 = k := by decide
          unfold chrOffset
          simp only [hv, scanChrSlot, hb7]
          split
          · next h7 =>
            rw [show (1024 * ((k + 4) % 8) + o) / 1024 % 8 = (k + 4) % 8 by omega, hx k hk,
              show (1024 * ((k + 4) % 8) + o) % 1024 = o by omega]
          · next h7 =>
            rw [show (1024 * k + o) / 1024 % 8 = k by omega, show (1024 * k + o) % 1024 = o by omega]
        unfold scanPattern at hr
        simp only [List.mem_cons, List.not_mem_nil, or_false] at hr
        rcases hr with rfl | rfl | rfl | rfl | rfl | rfl | rfl | rfl
        · rw [if_pos rfl, key 0 (by decide) o ho, ← hm]
          simp only [scanChrBank, evenBank _ m.scan.bankReg[0].isLt]
        · rw [if_pos rfl, key 1 (by decide) o ho, ← hm]
          simp only [scanChrBank, oddBank _ m.scan.bankReg[0].isLt]
        · rw [if_pos rfl, key 2 (by decide) o ho, ← hm]
          simp only [scanChrBank, evenBank _ m.scan.bankReg[1].isLt]
        · rw [if_pos rfl, key 3 (by decide) o ho, ← hm]
          simp only [scanChrBank, oddBank _ m.scan.bankReg[1].isLt]
        · rw [if_pos rfl, key 4 (by decide) o ho, ← hm]; rfl
        · rw [if_pos rfl, key 5 (by decide) o ho, ← hm]; rfl
        · rw [if_pos rfl, key 6 (by decide) o ho, ← hm]; rfl
        · rw [if_pos rfl, key 7 (by decide) o ho, ← hm]; rfl
      · cases hr

/-- No region fails exactly when every switchable slot reduces (R457). -/
theorem failingBanks_nil {c : Config} {m : Mapper} :
    failingBanks c m = [] ↔ ∀ r ∈ switchable c m, reduce r.bank r.count ≠ none := by
  rw [List.eq_nil_iff_forall_not_mem]
  constructor
  · exact fun h r hr hq => h r.bank (mem_failingBanks.mpr ⟨r, hr, rfl, hq⟩)
  · rintro h n hn
    obtain ⟨r, hr, -, hq⟩ := mem_failingBanks.mp hn
    exact h r hr hq

/-! ## Committing -/

theorem resetControl : ∀ v : BitVec 5, (v ||| 0x0C).toNat / 4 % 4 = 3 ∧
    (v ||| 0x0C).getLsbD 4 = v.getLsbD 4 := by decide

/-- The layout a Serial reset write selects shows no bank that was not shown before (R472, R475). -/
theorem reset_inRange {c : Config} {m : Mapper} (hv : c.variant = .serial)
    (h : failingBanks c m = []) (k : Nat) (l : Option Nat) :
    failingBanks c { m with serial := { m.serial with
      sr := 0, srCount := k, control := m.serial.control ||| 0x0C, lastWrite := l } } = [] := by
  rw [failingBanks_nil] at h ⊢
  simp only [switchable, hv, List.mem_append] at h ⊢
  obtain ⟨e3, e4⟩ := resetControl m.serial.control
  rintro r (hr | hr)
  · simp only [serialProgram, e3] at hr
    have hr := List.mem_singleton.mp hr
    subst hr
    show reduce (m.serial.prgBank.toNat % 16) c.prgBanks16 ≠ none
    simp only [serialProgram] at h
    by_cases h2 : m.serial.control.toNat / 4 % 4 = 2
    · exact h ⟨false, 16384, 1, m.serial.prgBank.toNat % 16, c.prgBanks16⟩ (.inl (by simp [h2]))
    by_cases h3 : m.serial.control.toNat / 4 % 4 = 3
    · exact h ⟨false, 16384, 0, m.serial.prgBank.toNat % 16, c.prgBanks16⟩ (.inl (by simp [h3]))
    have hp : m.serial.prgBank.toNat % 16 = m.serial.prgBank.toNat % 16 / 2 * 2 ∨
      m.serial.prgBank.toNat % 16 = m.serial.prgBank.toNat % 16 / 2 * 2 + 1 := by omega
    rcases hp with hp | hp
    · have := h ⟨false, 16384, 0, m.serial.prgBank.toNat % 16 / 2 * 2, c.prgBanks16⟩ (.inl (by simp [h2, h3]))
      rw [hp]; exact this
    · have := h ⟨false, 16384, 1, m.serial.prgBank.toNat % 16 / 2 * 2 + 1, c.prgBanks16⟩ (.inl (by simp [h2, h3]))
      rw [hp]; exact this
  · refine h r (.inr ?_)
    simp only [serialPattern, e4] at hr ⊢
    exact hr

/-- The register a fifth write names, by address range (R473, R474). -/
theorem serialCommitted_eq {a : Addr} (h : 0x8000 ≤ a.toNat) (c : Config) (v : BitVec 5) (m : Mapper) :
    serialCommitted c a v m = serialTarget c a v m := by
  have hi : (a.extractLsb' 13 2).toNat = a.toNat / 8192 % 4 := by
    simp [BitVec.extractLsb'_toNat, Nat.shiftRight_eq_div_pow]
  have hlt := a.isLt
  unfold serialCommitted serialTarget
  rw [hi]
  have h4 : a.toNat / 8192 % 4 = 0 ∨ a.toNat / 8192 % 4 = 1 ∨ a.toNat / 8192 % 4 = 2 ∨
      a.toNat / 8192 % 4 = 3 := by omega
  rcases h4 with h4 | h4 | h4 | h4 <;> rw [h4] <;> simp only
  · rw [if_pos (by omega), ← serialMirror_eq]
  · rw [if_neg (by omega), if_pos (by omega)]
  · rw [if_neg (by omega), if_neg (by omega), if_pos (by omega)]
  · rw [if_neg (by omega), if_neg (by omega), if_neg (by omega)]

/-- What the check sees of a fifth write does not depend on the shift register or the write time. -/
theorem failingBanks_target (c : Config) (a : Addr) (v r : BitVec 5) (k : Nat) (l : Option Nat) (m : Mapper) :
    failingBanks c (serialTarget c a v { m with serial := { m.serial with
      sr := r, srCount := k, lastWrite := l } }) = failingBanks c (serialTarget c a v m) := by
  unfold serialTarget
  split
  · rfl
  split
  · rfl
  split <;> rfl

/-- A committed write that halts names a bank out of range (R457). -/
theorem Committed.fault {a : Addr} {d : Byte} {m : Mapper} {s t : State} (h : Committed a d m s t)
    (hh : s.cpu.halted = false) (ht : t.cpu.halted = true) :
    ∃ n ∈ failingBanks s.cfg m, t = s.raiseHalt .mapperFault a d (some n) := by
  rcases h with ⟨-, e⟩ | ⟨-, n, hn, e⟩
  · rw [e] at ht; rw [show (({ s with mapper := m } : State).cpu.halted) = s.cpu.halted from rfl, hh] at ht
    cases ht
  · exact ⟨n, hn, e⟩

theorem setMapper_running {m : Mapper} {s : State} (hh : s.cpu.halted = false) :
    (s.setMapper m).cpu.halted ≠ true := by
  rw [show (s.setMapper m).cpu.halted = s.cpu.halted from rfl, hh]; decide

/-- Where a shift write of the Serial variant fails (R457, R473). -/
theorem serialShift_fault {a : Addr} {d : Byte} {s : State} (ha : 0x8000 ≤ a.toNat)
    (hh : s.cpu.halted = false) (ht : (serialShift a d s).cpu.halted = true) :
    ∃ n ∈ failingBanks s.cfg (serialTarget s.cfg a
      (BitVec.ofNat 5 (s.mapper.serial.sr.toNat / 2 + 16 * (d.getLsbD 0).toNat)) s.mapper),
      serialShift a d s = (s.setMapper { s.mapper with serial := { s.mapper.serial with
        sr := 0, srCount := 0 } }).raiseHalt .mapperFault a d (some n) := by
  have hr : (s.mapper.serial.sr >>> 1) ||| (bit 5 d[0] <<< 4) =
      BitVec.ofNat 5 (s.mapper.serial.sr.toNat / 2 + 16 * (d.getLsbD 0).toNat) := by
    apply BitVec.eq_of_toNat_eq
    rw [shiftRegister_toNat, BitVec.getLsbD_eq_getElem (by decide), BitVec.toNat_ofNat, Nat.mod_eq_of_lt]
    have := s.mapper.serial.sr.isLt
    have := Bool.toNat_le d[0]
    omega
  unfold serialShift at ht ⊢
  simp only [hr] at ht ⊢
  split at ht
  · next hc =>
    rw [if_pos hc]
    obtain ⟨n, hn, e⟩ := Committed.fault commitBanks_committed (by exact hh) ht
    refine ⟨n, ?_, e⟩
    rw [serialCommitted_eq ha] at hn
    exact failingBanks_target _ _ _ _ _ _ _ ▸ hn
  · exact absurd ht (setMapper_running hh)

/-- A bus write that halts the Processor is a Mapper fault, and the bank it names is one of those
out of range under the registers the write would have committed (R457). -/
theorem busWrite_fault {a : Addr} {d : Byte} {s : State} (hh : s.cpu.halted = false)
    (ht : (busWrite a d s).cpu.halted = true) :
    0x8000 ≤ a.toNat ∧ ∃ n ∈ failingBanks s.cfg (proposed a d s), ∃ r k l,
      busWrite a d s = (s.setMapper { s.mapper with serial := { s.mapper.serial with
        sr := r, srCount := k, lastWrite := l } }).raiseHalt .mapperFault a d (some n) := by
  have ha : 0x8000 ≤ a.toNat := by
    rcases Nat.lt_or_ge a.toNat 0x8000 with h | h
    · rw [busWrite_cpu_low h, hh] at ht; cases ht
    · exact h
  refine ⟨ha, ?_⟩
  rw [busWrite_window ha] at ht ⊢
  unfold writeRegister at ht ⊢
  unfold proposed
  cases hv : s.cfg.variant with
  | fixed => simp only [hv] at ht; rw [hh] at ht; cases ht
  | serial =>
    simp only [hv] at ht ⊢
    unfold serialWrite at ht ⊢
    have h7 : d[7] = d.getLsbD 7 := (BitVec.getLsbD_eq_getElem (by decide)).symm
    simp only [h7] at ht ⊢
    split at ht
    · exact absurd ht (setMapper_running hh)
    · next hs =>
      rw [if_neg hs]
      split at ht
      · next h =>
        rw [if_pos h, if_pos h]
        obtain ⟨n, hn, e⟩ := Committed.fault commitBanks_committed (by exact hh) ht
        exact ⟨n, hn, _, _, _, e⟩
      · next h =>
        rw [if_neg h, if_neg h]
        obtain ⟨n, hn, e⟩ := serialShift_fault ha (by exact hh) ht
        exact ⟨n, failingBanks_target _ _ _ _ _ _ _ ▸ hn, _, _, _, e⟩
  | scanline =>
    simp only [hv] at ht ⊢
    have h0 : a[0] = decide (a.toNat % 2 = 1) := by
      rw [← BitVec.getLsbD_eq_getElem (by decide), BitVec.getLsbD, Nat.testBit_zero]
    have h8 : (s.mapper.scan.bankSelect.extractLsb' 0 3).toNat = s.mapper.scan.bankSelect.toNat % 8 := by
      simp [BitVec.extractLsb'_toNat]
    unfold scanWrite at ht ⊢
    simp only [h8] at ht ⊢
    split at ht
    · next e1 e2 =>
      rw [if_pos (by rw [h0] at e2; simp at e2; omega)]
      obtain ⟨n, hn, e⟩ := Committed.fault commitBanks_committed (by exact hh) ht
      exact ⟨n, hn, _, _, _, e⟩
    · next e1 e2 =>
      rw [if_neg (by rw [h0] at e2; simp at e2; omega)]
      obtain ⟨n, hn, e⟩ := Committed.fault commitBanks_committed (by exact hh) ht
      exact ⟨n, hn, _, _, _, e⟩
    all_goals exact absurd ht (setMapper_running hh)

end Sys2Proof.Machine
end

