-- ==== Sys2Proof/Laws/Flags.lean ====
section
/-! SUPPORT. The flag computations bit by bit, and the adder in integers. -/

namespace Sys2Proof.Machine

theorem setFlag_bits (f : Flag) (b : Bool) (p : Byte) (i : Nat) (hi : i < 8) :
    (setFlag f b p).getLsbD i = if f.mask.getLsbD i then b else p.getLsbD i := by
  unfold setFlag
  cases b <;> cases h : f.mask.getLsbD i <;>
    simp [hi, h, -BitVec.getLsbD_eq_getElem]

@[simp] theorem mask_bit (f : Flag) (i : Nat) : f.mask.getLsbD i = decide (i = match f with
    | .carry => 0 | .zero => 1 | .intDisable => 2 | .decimal => 3
    | .brk => 4 | .alwaysSet => 5 | .overflow => 6 | .negative => 7) := by
  by_cases hi : i < 8
  · have h : ∀ j < 8, ∀ f : Flag, f.mask.getLsbD j = decide (j = match f with
        | .carry => 0 | .zero => 1 | .intDisable => 2 | .decimal => 3
        | .brk => 4 | .alwaysSet => 5 | .overflow => 6 | .negative => 7) := by
      intro j hj f
      cases f <;> revert j <;> decide
    exact h i hi f
  · rw [BitVec.getLsbD_of_ge _ _ (by omega)]
    cases f <;> simp <;> omega

theorem setZN_from (v p : Byte) : ZNFrom p (setZN v p) v := by
  intro i hi
  simp only [setZN, setFlag_bits _ _ _ _ hi, mask_bit, decide_eq_true_eq]
  by_cases h1 : i = 1
  · subst h1; simp
  · by_cases h7 : i = 7
    · subst h7; simp [BitVec.getLsbD_eq_getElem]
    · simp [h1, h7]

theorem getFlag_eq (f : Flag) (p : Byte) : getFlag f p = p.getLsbD (match f with
    | .carry => 0 | .zero => 1 | .intDisable => 2 | .decimal => 3
    | .brk => 4 | .alwaysSet => 5 | .overflow => 6 | .negative => 7) := by
  have h : ∀ p : Byte, ∀ f : Flag, getFlag f p = p.getLsbD (match f with
    | .carry => 0 | .zero => 1 | .intDisable => 2 | .decimal => 3
    | .brk => 4 | .alwaysSet => 5 | .overflow => 6 | .negative => 7) := by
    intro p f
    cases f <;> revert p <;> decide
  exact h p f

theorem sumFlags_from (r : Sum) (p : Byte) :
    CZVNFrom p (sumFlags r p) r.result r.carryOut r.overflow := by
  intro i hi
  simp only [sumFlags, setZN, setFlag_bits _ _ _ _ hi, mask_bit, decide_eq_true_eq]
  by_cases h0 : i = 0
  · subst h0; simp
  by_cases h1 : i = 1
  · subst h1; simp
  by_cases h6 : i = 6
  · subst h6; simp
  by_cases h7 : i = 7
  · subst h7; simp [BitVec.getLsbD_eq_getElem]
  simp [h0, h1, h6, h7]

theorem compareFlags_from (reg m p : Byte) :
    CZNFrom p (compareFlags reg m p) (reg - m) (decide (m.toNat ≤ reg.toNat)) := by
  intro i hi
  simp only [compareFlags, setZN, setFlag_bits _ _ _ _ hi, mask_bit, decide_eq_true_eq]
  by_cases h0 : i = 0
  · subst h0; simp
  by_cases h1 : i = 1
  · subst h1; simp
  by_cases h7 : i = 7
  · subst h7; simp [BitVec.getLsbD_eq_getElem]
  simp [h0, h1, h7]

theorem putFlag_from (f : Flag) (b : Bool) (p : Byte) : BitFrom p (setFlag f b p) (match f with
    | .carry => 0 | .zero => 1 | .intDisable => 2 | .decimal => 3
    | .brk => 4 | .alwaysSet => 5 | .overflow => 6 | .negative => 7) b := by
  intro i hi
  simp only [setFlag_bits _ _ _ _ hi, mask_bit, decide_eq_true_eq]

/-- The exact sum behind the adder's result and carry (R220). -/
theorem add8_exact (a m : Byte) (c : Bool) :
    (add8 a m c).result.toNat + 256 * (add8 a m c).carryOut.toNat = a.toNat + m.toNat + c.toNat := by
  have ha := a.isLt
  have hm := m.isLt
  have hc : c.toNat ≤ 1 := Bool.toNat_le c
  simp only [add8, BitVec.toNat_ofNat]
  by_cases h : 256 ≤ a.toNat + m.toNat + c.toNat <;> simp [h] <;> omega

theorem pulledStatus_bits (p : Byte) : ∀ i < 8, (pulledStatus p).getLsbD i =
    if i = 5 then true else if i = 4 then false else p.getLsbD i := by
  revert p; decide

theorem interruptStatus_bits (p : Byte) : ∀ i < 8, (interruptStatus p).getLsbD i =
    if i = 5 then true else if i = 4 then false else p.getLsbD i := by
  revert p; decide

theorem pushedStatus_bits (p : Byte) : ∀ i < 8, (pushedStatus p).getLsbD i =
    if i = 5 then true else if i = 4 then true else p.getLsbD i := by
  revert p; decide

/-- A flag other than bits 4 and 5 is written without touching bits 4 and 5. -/
theorem setFlag_statusBits (f : Flag) (b : Bool) (p : Byte) (h4 : f ≠ .brk) (h5 : f ≠ .alwaysSet) :
    (setFlag f b p).getLsbD 4 = p.getLsbD 4 ∧ (setFlag f b p).getLsbD 5 = p.getLsbD 5 := by
  constructor <;> rw [setFlag_bits _ _ _ _ (by decide), mask_bit] <;> cases f <;> simp_all

theorem setZN_statusBits (v p : Byte) :
    (setZN v p).getLsbD 4 = p.getLsbD 4 ∧ (setZN v p).getLsbD 5 = p.getLsbD 5 := by
  have h := setZN_from v p
  exact ⟨by rw [h 4 (by decide)]; simp, by rw [h 5 (by decide)]; simp⟩

/-- Writing the carry, as a claim says it. -/
theorem setFlag_carry (c : Bool) (p : Byte) : setFlag .carry c p = withCarry c p := by
  revert p; cases c <;> decide

/-- The shifts and rotates in whole numbers (R251 to R254). -/
theorem shiftFns_eq (v : Byte) (c : Bool) :
    aslFn v c = (BitVec.ofNat 8 (2 * v.toNat), v.getLsbD 7) ∧
    lsrFn v c = (BitVec.ofNat 8 (v.toNat / 2), v.getLsbD 0) ∧
    rolFn v c = (BitVec.ofNat 8 (2 * v.toNat + c.toNat), v.getLsbD 7) ∧
    rorFn v c = (BitVec.ofNat 8 (v.toNat / 2 + 128 * c.toNat), v.getLsbD 0) := by
  revert v; cases c <;> decide

end Sys2Proof.Machine
end

