-- ==== Sys2Proof/Laws/Operands.lean ====
section
/-! SUPPORT. What operand resolution and the shared instruction shapes can do, one lemma each. -/

namespace Sys2Proof.Machine

/-! ## Resolution -/

/-- The state after operand resolution: only `pc` and `pgx` are written. -/
theorem resolve_state (o : Operand) (s : State) : (resolve o s).2 =
    { s with cpu := { s.cpu with pc := s.cpu.pc + BitVec.ofNat 16 (operandLength o)
                                 pgx := (resolve o s).2.cpu.pgx } } := by
  cases o <;> simp [resolve] <;> rfl

@[simp] theorem resolve_cfg (o : Operand) (s : State) : (resolve o s).2.cfg = s.cfg := by
  rw [resolve_state]

@[simp] theorem resolve_ppu (o : Operand) (s : State) : (resolve o s).2.ppu = s.ppu := by
  rw [resolve_state]

/-- The processor space looks the same after operand resolution. -/
@[simp] theorem resolve_peek (o : Operand) (s : State) (a : Addr) : (resolve o s).2.peek a = s.peek a := by
  rw [resolve_state]; rfl

/-- The operand of the immediate mode is the byte the fetch read (R164). -/
theorem readOperand_imm (b : Byte) (s : State) : readOperand (.imm b) s = (b, (resolve (.imm b) s).2) := rfl

/-- Every other operand is one bus read at the effective address (R190). -/
theorem readOperand_bus {o : Operand} (h : ∀ b, o ≠ .imm b) (s : State) :
    readOperand o s = busRead (resolve o s).1 (resolve o s).2 := by
  cases o <;> first | exact absurd rfl (h _) | rfl

/-- The state after the operand read, against the resolved state. -/
theorem readOperand_frame (o : Operand) (s : State) : ReadFrame (resolve o s).2 (readOperand o s).2 := by
  unfold readOperand
  cases o.immediate? with
  | some m => exact ReadFrame.refl _
  | none => exact busRead_frame _ _

/-- The Processor after the operand read. -/
theorem readOperand_cpu (o : Operand) (s : State) : (readOperand o s).2.cpu =
    { s.cpu with pc := s.cpu.pc + BitVec.ofNat 16 (operandLength o)
                 pgx := (resolve o s).2.cpu.pgx } := by
  rw [(readOperand_frame o s).cpu, resolve_state]

/-- An operand read with no side effect leaves everything outside the Processor. -/
theorem readOperand_quiet (o : Operand) (s : State)
    (h : o.immediate?.isSome ∨ ¬ readHasEffect (resolve o s).1) :
    (readOperand o s).2 = (resolve o s).2 := by
  unfold readOperand
  cases ho : o.immediate? with
  | some m => rfl
  | none => exact busRead_quiet (by simpa [ho] using h) _

theorem ReadFrame.of_resolve {o : Operand} {s t : State} (h : ReadFrame (resolve o s).2 t) :
    SameStore s t ∧ t.stepCount = s.stepCount ∧ t.ppu = { s.ppu with
      vblank := t.ppu.vblank, w := t.ppu.w, rdbuf := t.ppu.rdbuf, v := t.ppu.v } := by
  refine ⟨⟨?_, ?_, ?_, ?_, ?_, ?_, ?_, ?_, ?_, ?_⟩, ?_, ?_⟩
  · rw [h.cfg, resolve_state]
  · rw [h.mapper, resolve_state]
  · rw [h.wram, resolve_state]
  · rw [h.cartRam, resolve_state]
  · rw [h.ntram, resolve_state]
  · rw [h.ntramExt, resolve_state]
  · rw [h.patRam, resolve_state]
  · rw [h.ppu, resolve_state]
  · rw [h.ppu, resolve_state]
  · intro a; rw [h.peek, resolve_peek]
  · rw [h.stepCount, resolve_state]
  · have := h.ppu; rwa [resolve_ppu] at this

/-! ## The shapes -/

/-- A read instruction always answers a next state (R190, R178). -/
theorem readInstr_eq (base : Nat) (o : Operand) (effect : Byte → State → State) (s : State) :
    readInstr base o effect s = .next ((effect (readOperand o s).1 (readOperand o s).2).setCyc
      (base + (if (resolve o s).2.cpu.pgx then 1 else 0))) := by
  simp only [readInstr, readPenalty]
  rw [readOperand_cpu]

/-- An implied instruction always answers a next state (R162). -/
theorem impliedInstr_eq (base : Nat) (effect : State → State) (s : State) :
    impliedInstr base effect s = .next ((effect (advance 1 s)).setCyc base) := rfl

/-- A store always answers a next state: its one bus write, and the cost unless that write halted. -/
theorem storeInstr_eq (base : Nat) (o : Operand) (v : Byte) (s : State) :
    storeInstr base o v s = .next (finish (base + dmaExtra s.cfg (resolve o s).1)
      (busWrite (resolve o s).1 v (resolve o s).2)) := rfl

theorem finish_running {cost : Nat} {s : State} (h : s.cpu.halted = false) :
    finish cost s = s.setCyc cost := by
  rw [finish, h]; rfl

theorem finish_halted {cost : Nat} {s : State} (h : s.cpu.halted = true) : finish cost s = s := by
  rw [finish, h]; rfl

theorem writeBack_running {cost : Nat} {ea : Addr} {r : Byte} {s : State}
    (h : (busWrite ea r s).cpu.halted = false) :
    writeBack cost ea r s = ((busWrite ea r s).updZN r).setCyc cost := by
  simp [writeBack, h]

theorem writeBack_halted {cost : Nat} {ea : Addr} {r : Byte} {s : State}
    (h : (busWrite ea r s).cpu.halted = true) : writeBack cost ea r s = busWrite ea r s := by
  simp [writeBack, h]

/-- A write to RAM never halts. -/
theorem busWrite_ram_cpu {a : Addr} (h : isRam a) (d : Byte) (s : State) : (busWrite a d s).cpu = s.cpu :=
  busWrite_cpu_low (by rcases h with h | h <;> omega) d s

/-- A write to RAM touches the two RAM arrays only. -/
theorem busWrite_ram_outside {a : Addr} (h : isRam a) (d : Byte) (s : State) : busWrite a d s =
    { s with wram := (busWrite a d s).wram, cartRam := (busWrite a d s).cartRam } := by
  rcases h with h | ⟨h1, h2⟩
  · rw [busWrite, if_pos h]
  · rw [busWrite, if_neg (by omega), if_neg (by omega), if_neg (by omega), if_neg (by omega),
      if_neg (by omega), cartWrite, if_neg (by omega), if_pos h1]

/-- The stall of object DMA, by address (R180). -/
theorem dmaExtra_eq (c : Config) (a : Addr) :
    dmaExtra c a = if a = 0x4014 then c.oamDmaStall else 0 := by
  have : a.toNat = 0x4014 ↔ a = 0x4014 := ⟨fun h => BitVec.eq_of_toNat_eq h, fun h => by rw [h]; rfl⟩
  simp only [dmaExtra, this]

theorem dmaExtra_ram {a : Addr} (h : isRam a) (c : Config) : dmaExtra c a = 0 := by
  rw [dmaExtra, if_neg]
  rcases h with h | h <;> omega

end Sys2Proof.Machine
end

