-- ==== Sys2Proof/Laws/Exec.lean ====
section
/-! SUPPORT. What every instruction can do: bus reads, bus writes and register writes, in some order; and what it costs. -/

namespace Sys2Proof.Machine

/-- A register write an instruction or an interrupt may make: the halt record and the line sample
stay, and a status byte with bit 5 set and bit 4 clear stays one. -/
structure RegWrite (c c' : Cpu) : Prop where
  nmiPrev : c'.nmiPrev = c.nmiPrev
  halted : c'.halted = c.halted
  haltInfo : c'.haltInfo = c.haltInfo
  status : c.p.getLsbD 5 = true ∧ c.p.getLsbD 4 = false → c'.p.getLsbD 5 = true ∧ c'.p.getLsbD 4 = false

/-- `t` is reached from `s` by bus reads, bus writes and register writes. -/
inductive Access : State → State → Prop where
  | refl (s : State) : Access s s
  | read {s t : State} (a : Addr) (h : Access s t) : Access s (busRead a t).2
  | write {s t : State} (a : Addr) (d : Byte) (h : Access s t) : Access s (busWrite a d t)
  | regs {s t : State} (c : Cpu) (h : Access s t) (hc : RegWrite t.cpu c) : Access s { t with cpu := c }

theorem Access.trans {s t u : State} (h : Access s t) (k : Access t u) : Access s u := by
  induction k with
  | refl => exact h
  | read a _ ih => exact ih.read a
  | write a d _ ih => exact ih.write a d
  | regs c _ hc ih => exact ih.regs c hc

/-- Whatever bus reads, bus writes and register writes keep, an access keeps. -/
theorem Access.keeps {P : State → Prop} {s t : State} (h : Access s t) (hs : P s)
    (hr : ∀ a u, P u → P (busRead a u).2) (hw : ∀ a d u, P u → P (busWrite a d u))
    (hc : ∀ u c, P u → RegWrite u.cpu c → P { u with cpu := c }) : P t := by
  induction h with
  | refl => exact hs
  | read a _ ih => exact hr a _ ih
  | write a d _ ih => exact hw a d _ ih
  | regs c _ hc' ih => exact hc _ c ih hc'

/-- An access leaves the configuration, the step count and the line sample. -/
theorem Access.frame {s t : State} (h : Access s t) :
    t.cfg = s.cfg ∧ t.stepCount = s.stepCount ∧ t.cpu.nmiPrev = s.cpu.nmiPrev :=
  h.keeps (P := fun u => u.cfg = s.cfg ∧ u.stepCount = s.stepCount ∧ u.cpu.nmiPrev = s.cpu.nmiPrev)
    ⟨rfl, rfl, rfl⟩
    (fun a u hu => by simpa using hu)
    (fun a d u hu => by
      rw [busWrite_cfg, busWrite_stepCount, busWrite_cpu]
      exact hu)
    (fun u c hu hc => ⟨hu.1, hu.2.1, hc.nmiPrev.trans hu.2.2⟩)

/-! ## The register updates -/

theorem setPgx_access (b : Bool) (s : State) : Access s (s.setPgx b) :=
  (Access.refl s).regs _ ⟨rfl, rfl, rfl, id⟩
theorem setPc_access (v : Addr) (s : State) : Access s (s.setPc v) :=
  (Access.refl s).regs _ ⟨rfl, rfl, rfl, id⟩
theorem setCyc_access (n : Nat) (s : State) : Access s (s.setCyc n) :=
  (Access.refl s).regs _ ⟨rfl, rfl, rfl, id⟩
theorem setA_access (v : Byte) (s : State) : Access s (s.setA v) :=
  (Access.refl s).regs _ ⟨rfl, rfl, rfl, id⟩
theorem setX_access (v : Byte) (s : State) : Access s (s.setX v) :=
  (Access.refl s).regs _ ⟨rfl, rfl, rfl, id⟩
theorem setY_access (v : Byte) (s : State) : Access s (s.setY v) :=
  (Access.refl s).regs _ ⟨rfl, rfl, rfl, id⟩
theorem setS_access (v : Byte) (s : State) : Access s (s.setS v) :=
  (Access.refl s).regs _ ⟨rfl, rfl, rfl, id⟩

/-- A status byte with bits 4 and 5 as they were may be written. -/
theorem setP_access {q : Byte} {s : State}
    (h : s.cpu.p.getLsbD 5 = true ∧ s.cpu.p.getLsbD 4 = false → q.getLsbD 5 = true ∧ q.getLsbD 4 = false) :
    Access s (s.setP q) := (Access.refl s).regs _ ⟨rfl, rfl, rfl, h⟩

theorem putFlag_access {f : Flag} (h4 : f ≠ .brk) (h5 : f ≠ .alwaysSet) (b : Bool) (s : State) :
    Access s (s.putFlag f b) := by
  refine setP_access fun h => ?_
  have := setFlag_statusBits f b s.cpu.p h4 h5
  rw [this.1, this.2]; exact h

theorem updZN_access (v : Byte) (s : State) : Access s (s.updZN v) := by
  refine setP_access fun h => ?_
  have := setZN_statusBits v s.cpu.p
  rw [this.1, this.2]; exact h

/-! ## The shapes -/

theorem advance_access (n : Nat) (s : State) : Access s (advance n s) :=
  (setPgx_access false s).trans (setPc_access _ _)

theorem readPointer_access (lo hi : Addr) (s : State) : Access s (readPointer lo hi s).2 :=
  ((Access.refl s).read lo).read hi

theorem resolve_access (o : Operand) (s : State) : Access s (resolve o s).2 := by
  cases o with
  | imm => exact advance_access ..
  | zp => exact advance_access ..
  | zpx => exact advance_access ..
  | zpy => exact advance_access ..
  | abs => exact advance_access ..
  | abx => exact (advance_access ..).trans (setPgx_access ..)
  | aby => exact (advance_access ..).trans (setPgx_access ..)
  | izx => exact (advance_access ..).trans (readPointer_access ..)
  | izy => exact ((advance_access ..).trans (readPointer_access ..)).trans (setPgx_access ..)

theorem readOperand_access (o : Operand) (s : State) : Access s (readOperand o s).2 := by
  refine (resolve_access o s).trans ?_
  unfold readOperand
  cases o.immediate? with
  | some => exact Access.refl _
  | none => exact (Access.refl _).read _

theorem push_access (d : Byte) (s : State) : Access s (push d s) :=
  ((Access.refl s).write _ d).trans (setS_access ..)

theorem pull_access (s : State) : Access s (pull s).2 := (setS_access _ s).trans ((Access.refl _).read _)

/-- What `exec` answers: an access, and a cost between 2 and 7 and a DMA stall, unless the cost was
left because the Processor halted. -/
structure ExecDone (s t : State) : Prop where
  access : Access s t
  cost : t.cpu.cyc = s.cpu.cyc ∧ t.cpu.halted = true ∨
    2 ≤ t.cpu.cyc ∧ t.cpu.cyc ≤ 7 + s.cfg.oamDmaStall

theorem dmaExtra_le (c : Config) (a : Addr) : dmaExtra c a ≤ c.oamDmaStall := by
  unfold dmaExtra; split <;> omega

theorem readInstr_done {base : Nat} (h2 : 2 ≤ base) (h6 : base ≤ 6) (o : Operand)
    (effect : Byte → State → State) (he : ∀ m u, Access u (effect m u)) (s : State) :
    ∃ t, readInstr base o effect s = .next t ∧ ExecDone s t := by
  refine ⟨_, rfl, ((readOperand_access o s).trans (he _ _)).trans (setCyc_access ..), .inr ?_⟩
  rw [setCyc_cpu_cyc]
  unfold readPenalty
  split <;> omega

theorem resolve_cyc (o : Operand) (s : State) : (resolve o s).2.cpu.cyc = s.cpu.cyc := by
  rw [resolve_state]

theorem busWrite_cyc (a : Addr) (d : Byte) (s : State) : (busWrite a d s).cpu.cyc = s.cpu.cyc := by
  rw [busWrite_cpu]

theorem storeInstr_done {base : Nat} (h2 : 2 ≤ base) (h6 : base ≤ 6) (o : Operand) (v : Byte) (s : State) :
    ∃ t, storeInstr base o v s = .next t ∧ ExecDone s t := by
  have hd := dmaExtra_le s.cfg (resolve o s).1
  have hw : Access s (busWrite (resolve o s).1 v (resolve o s).2) :=
    (resolve_access o s).trans ((Access.refl _).write _ _)
  rw [storeInstr_eq]
  cases hh : (busWrite (resolve o s).1 v (resolve o s).2).cpu.halted with
  | true =>
    rw [finish_halted hh]
    exact ⟨_, rfl, hw, .inl ⟨by rw [busWrite_cyc, resolve_cyc], hh⟩⟩
  | false =>
    rw [finish_running hh]
    refine ⟨_, rfl, hw.trans (setCyc_access ..), .inr ?_⟩
    rw [setCyc_cpu_cyc]
    omega

theorem writeBack_done {s u : State} {cost : Nat} (hu : Access s u) (hc : u.cpu.cyc = s.cpu.cyc)
    (h2 : 2 ≤ cost) (h7 : cost ≤ 7 + s.cfg.oamDmaStall) (ea : Addr) (r : Byte) :
    ExecDone s (writeBack cost ea r u) := by
  have hw : Access s (busWrite ea r u) := hu.trans ((Access.refl _).write _ _)
  cases hh : (busWrite ea r u).cpu.halted with
  | true =>
    rw [writeBack_halted hh]
    exact ⟨hw, .inl ⟨by rw [busWrite_cyc, hc], hh⟩⟩
  | false =>
    rw [writeBack_running hh]
    refine ⟨(hw.trans (updZN_access ..)).trans (setCyc_access ..), .inr ?_⟩
    rw [setCyc_cpu_cyc]
    omega

theorem shiftMem_done {base : Nat} (h2 : 2 ≤ base) (h7 : base ≤ 7) (o : Operand) (f : ShiftFn)
    (s : State) : ∃ t, shiftMem base o f s = .next t ∧ ExecDone s t := by
  have hd := dmaExtra_le s.cfg (resolve o s).1
  refine ⟨_, rfl, writeBack_done ?_ ?_ (by omega) (by omega) _ _⟩
  · exact ((resolve_access o s).trans ((Access.refl _).read _)).trans
      (putFlag_access (by decide) (by decide) _ _)
  · rw [putFlag_cpu_cyc, busRead_cpu, resolve_cyc]

theorem stepMem_done {base : Nat} (h2 : 2 ≤ base) (h7 : base ≤ 7) (o : Operand) (f : Byte → Byte)
    (s : State) : ∃ t, stepMem base o f s = .next t ∧ ExecDone s t := by
  have hd := dmaExtra_le s.cfg (resolve o s).1
  refine ⟨_, rfl, writeBack_done ?_ ?_ (by omega) (by omega) _ _⟩
  · exact (resolve_access o s).trans ((Access.refl _).read _)
  · rw [busRead_cpu, resolve_cyc]

theorem impliedInstr_done {base : Nat} (h2 : 2 ≤ base) (h7 : base ≤ 7) (effect : State → State)
    (he : ∀ u, Access u (effect u)) (s : State) :
    ∃ t, impliedInstr base effect s = .next t ∧ ExecDone s t := by
  refine ⟨_, rfl, ((advance_access 1 s).trans (he _)).trans (setCyc_access ..), .inr ?_⟩
  rw [setCyc_cpu_cyc]
  omega

theorem shiftAcc_done (f : ShiftFn) (s : State) : ∃ t, shiftAcc f s = .next t ∧ ExecDone s t := by
  refine ⟨_, rfl, ?_, .inr ?_⟩
  · exact ((((advance_access 1 s).trans (putFlag_access (by decide) (by decide) _ _)).trans
      (setA_access ..)).trans (updZN_access ..)).trans (setCyc_access ..)
  · rw [setCyc_cpu_cyc]; omega

theorem branchInstr_done (taken : Bool) (off : Byte) (s : State) :
    ∃ t, branchInstr taken off s = .next t ∧ ExecDone s t := by
  unfold branchInstr
  cases taken with
  | true =>
    refine ⟨_, rfl, ((advance_access 2 s).trans (setPc_access ..)).trans (setCyc_access ..), .inr ?_⟩
    rw [setCyc_cpu_cyc]
    split <;> omega
  | false =>
    refine ⟨_, rfl, (advance_access 2 s).trans (setCyc_access ..), .inr ?_⟩
    rw [setCyc_cpu_cyc]; omega

/-! ## The effects -/

theorem loadA_access (v : Byte) (s : State) : Access s (loadReg State.setA v s) :=
  (setA_access v s).trans (updZN_access ..)
theorem loadX_access (v : Byte) (s : State) : Access s (loadReg State.setX v s) :=
  (setX_access v s).trans (updZN_access ..)
theorem loadY_access (v : Byte) (s : State) : Access s (loadReg State.setY v s) :=
  (setY_access v s).trans (updZN_access ..)

theorem sumFlags_statusBits (r : Sum) (p : Byte) :
    (sumFlags r p).getLsbD 4 = p.getLsbD 4 ∧ (sumFlags r p).getLsbD 5 = p.getLsbD 5 :=
  ⟨by rw [sumFlags_from r p 4 (by decide)]; simp, by rw [sumFlags_from r p 5 (by decide)]; simp⟩

theorem compareFlags_statusBits (x m p : Byte) :
    (compareFlags x m p).getLsbD 4 = p.getLsbD 4 ∧ (compareFlags x m p).getLsbD 5 = p.getLsbD 5 :=
  ⟨by rw [compareFlags_from x m p 4 (by decide)]; simp,
   by rw [compareFlags_from x m p 5 (by decide)]; simp⟩

theorem bitFlags_statusBits (a m p : Byte) :
    (bitFlags a m p).getLsbD 4 = p.getLsbD 4 ∧ (bitFlags a m p).getLsbD 5 = p.getLsbD 5 := by
  have h1 := setFlag_statusBits .zero (a &&& m == 0) p (by decide) (by decide)
  have h2 := setFlag_statusBits .overflow m[6] (setFlag .zero (a &&& m == 0) p) (by decide) (by decide)
  have h3 := setFlag_statusBits .negative m[7]
    (setFlag .overflow m[6] (setFlag .zero (a &&& m == 0) p)) (by decide) (by decide)
  exact ⟨h3.1.trans (h2.1.trans h1.1), h3.2.trans (h2.2.trans h1.2)⟩

theorem adcEffect_access (m : Byte) (s : State) : Access s (adcEffect m s) := by
  refine Access.trans (setP_access fun h => ?_) (setA_access _ _)
  have := sumFlags_statusBits (add8 s.cpu.a m (getFlag .carry s.cpu.p)) s.cpu.p
  rw [this.1, this.2]; exact h

theorem compareEffect_access (x m : Byte) (s : State) :
    Access s (s.setP (compareFlags x m s.cpu.p)) := by
  refine setP_access fun h => ?_
  have := compareFlags_statusBits x m s.cpu.p
  rw [this.1, this.2]; exact h

theorem bitEffect_access (m : Byte) (s : State) : Access s (bitEffect m s) := by
  refine setP_access fun h => ?_
  have := bitFlags_statusBits s.cpu.a m s.cpu.p
  rw [this.1, this.2]; exact h

theorem pulledStatus_access (v : Byte) (s : State) : Access s (s.setP (pulledStatus v)) :=
  setP_access fun _ => ⟨by rw [pulledStatus_bits v 5 (by decide)]; simp,
    by rw [pulledStatus_bits v 4 (by decide)]; simp⟩

theorem enterInterrupt_access (ret : Addr) (st : Byte) (vec : Addr) (s : State) :
    Access s (enterInterrupt ret st vec s) :=
  (((((push_access _ s).trans (push_access ..)).trans (push_access ..)).trans
    (putFlag_access (by decide) (by decide) _ _)).trans (readPointer_access ..)).trans (setPc_access ..)

theorem service_access (vec : Addr) (s : State) : Access s (service vec s) :=
  enterInterrupt_access ..

theorem returnFromInterrupt_access (s : State) : Access s (returnFromInterrupt s) :=
  ((((pull_access s).trans (pulledStatus_access ..)).trans (pull_access _)).trans
    (pull_access _)).trans (setPc_access ..)

theorem pushAddr_access (v : Addr) (s : State) : Access s (pushAddr v s) :=
  (push_access _ s).trans (push_access ..)

theorem pullAddr_access (s : State) : Access s (pullAddr s).2 := (pull_access s).trans (pull_access _)

/-- Every instruction answers a next state, reached by bus accesses and register writes. -/
theorem exec_done (i : Instr) (s : State) : ∃ t, exec i s = .next t ∧ ExecDone s t :=
  match i with
  | .ldaImm v => show ∃ t, execLdaImm v s = .next t ∧ ExecDone s t from
    readInstr_done (by decide) (by decide) _ _ loadA_access s
  | .ldaZp v => show ∃ t, execLdaZp v s = .next t ∧ ExecDone s t from
    readInstr_done (by decide) (by decide) _ _ loadA_access s
  | .ldaZpx v => show ∃ t, execLdaZpx v s = .next t ∧ ExecDone s t from
    readInstr_done (by decide) (by decide) _ _ loadA_access s
  | .ldaAbs v => show ∃ t, execLdaAbs v s = .next t ∧ ExecDone s t from
    readInstr_done (by decide) (by decide) _ _ loadA_access s
  | .ldaAbx v => show ∃ t, execLdaAbx v s = .next t ∧ ExecDone s t from
    readInstr_done (by decide) (by decide) _ _ loadA_access s
  | .ldaAby v => show ∃ t, execLdaAby v s = .next t ∧ ExecDone s t from
    readInstr_done (by decide) (by decide) _ _ loadA_access s
  | .ldaIzx v => show ∃ t, execLdaIzx v s = .next t ∧ ExecDone s t from
    readInstr_done (by decide) (by decide) _ _ loadA_access s
  | .ldaIzy v => show ∃ t, execLdaIzy v s = .next t ∧ ExecDone s t from
    readInstr_done (by decide) (by decide) _ _ loadA_access s
  | .ldxImm v => show ∃ t, execLdxImm v s = .next t ∧ ExecDone s t from
    readInstr_done (by decide) (by decide) _ _ loadX_access s
  | .ldxZp v => show ∃ t, execLdxZp v s = .next t ∧ ExecDone s t from
    readInstr_done (by decide) (by decide) _ _ loadX_access s
  | .ldxZpy v => show ∃ t, execLdxZpy v s = .next t ∧ ExecDone s t from
    readInstr_done (by decide) (by decide) _ _ loadX_access s
  | .ldxAbs v => show ∃ t, execLdxAbs v s = .next t ∧ ExecDone s t from
    readInstr_done (by decide) (by decide) _ _ loadX_access s
  | .ldxAby v => show ∃ t, execLdxAby v s = .next t ∧ ExecDone s t from
    readInstr_done (by decide) (by decide) _ _ loadX_access s
  | .ldyImm v => show ∃ t, execLdyImm v s = .next t ∧ ExecDone s t from
    readInstr_done (by decide) (by decide) _ _ loadY_access s
  | .ldyZp v => show ∃ t, execLdyZp v s = .next t ∧ ExecDone s t from
    readInstr_done (by decide) (by decide) _ _ loadY_access s
  | .ldyZpx v => show ∃ t, execLdyZpx v s = .next t ∧ ExecDone s t from
    readInstr_done (by decide) (by decide) _ _ loadY_access s
  | .ldyAbs v => show ∃ t, execLdyAbs v s = .next t ∧ ExecDone s t from
    readInstr_done (by decide) (by decide) _ _ loadY_access s
  | .ldyAbx v => show ∃ t, execLdyAbx v s = .next t ∧ ExecDone s t from
    readInstr_done (by decide) (by decide) _ _ loadY_access s
  | .staZp v => show ∃ t, execStaZp v s = .next t ∧ ExecDone s t from
    storeInstr_done (by decide) (by decide) _ _ s
  | .staZpx v => show ∃ t, execStaZpx v s = .next t ∧ ExecDone s t from
    storeInstr_done (by decide) (by decide) _ _ s
  | .staAbs v => show ∃ t, execStaAbs v s = .next t ∧ ExecDone s t from
    storeInstr_done (by decide) (by decide) _ _ s
  | .staAbx v => show ∃ t, execStaAbx v s = .next t ∧ ExecDone s t from
    storeInstr_done (by decide) (by decide) _ _ s
  | .staAby v => show ∃ t, execStaAby v s = .next t ∧ ExecDone s t from
    storeInstr_done (by decide) (by decide) _ _ s
  | .staIzx v => show ∃ t, execStaIzx v s = .next t ∧ ExecDone s t from
    storeInstr_done (by decide) (by decide) _ _ s
  | .staIzy v => show ∃ t, execStaIzy v s = .next t ∧ ExecDone s t from
    storeInstr_done (by decide) (by decide) _ _ s
  | .stxZp v => show ∃ t, execStxZp v s = .next t ∧ ExecDone s t from
    storeInstr_done (by decide) (by decide) _ _ s
  | .stxZpy v => show ∃ t, execStxZpy v s = .next t ∧ ExecDone s t from
    storeInstr_done (by decide) (by decide) _ _ s
  | .stxAbs v => show ∃ t, execStxAbs v s = .next t ∧ ExecDone s t from
    storeInstr_done (by decide) (by decide) _ _ s
  | .styZp v => show ∃ t, execStyZp v s = .next t ∧ ExecDone s t from
    storeInstr_done (by decide) (by decide) _ _ s
  | .styZpx v => show ∃ t, execStyZpx v s = .next t ∧ ExecDone s t from
    storeInstr_done (by decide) (by decide) _ _ s
  | .styAbs v => show ∃ t, execStyAbs v s = .next t ∧ ExecDone s t from
    storeInstr_done (by decide) (by decide) _ _ s
  | .tax => show ∃ t, execTax s = .next t ∧ ExecDone s t from
    impliedInstr_done (by decide) (by decide) _ (fun u => loadX_access _ u) s
  | .tay => show ∃ t, execTay s = .next t ∧ ExecDone s t from
    impliedInstr_done (by decide) (by decide) _ (fun u => loadY_access _ u) s
  | .txa => show ∃ t, execTxa s = .next t ∧ ExecDone s t from
    impliedInstr_done (by decide) (by decide) _ (fun u => loadA_access _ u) s
  | .tya => show ∃ t, execTya s = .next t ∧ ExecDone s t from
    impliedInstr_done (by decide) (by decide) _ (fun u => loadA_access _ u) s
  | .tsx => show ∃ t, execTsx s = .next t ∧ ExecDone s t from
    impliedInstr_done (by decide) (by decide) _ (fun u => loadX_access _ u) s
  | .txs => show ∃ t, execTxs s = .next t ∧ ExecDone s t from
    impliedInstr_done (by decide) (by decide) _ (fun u => setS_access _ u) s
  | .adcImm v => show ∃ t, execAdcImm v s = .next t ∧ ExecDone s t from
    readInstr_done (by decide) (by decide) _ _ adcEffect_access s
  | .adcZp v => show ∃ t, execAdcZp v s = .next t ∧ ExecDone s t from
    readInstr_done (by decide) (by decide) _ _ adcEffect_access s
  | .adcZpx v => show ∃ t, execAdcZpx v s = .next t ∧ ExecDone s t from
    readInstr_done (by decide) (by decide) _ _ adcEffect_access s
  | .adcAbs v => show ∃ t, execAdcAbs v s = .next t ∧ ExecDone s t from
    readInstr_done (by decide) (by decide) _ _ adcEffect_access s
  | .adcAbx v => show ∃ t, execAdcAbx v s = .next t ∧ ExecDone s t from
    readInstr_done (by decide) (by decide) _ _ adcEffect_access s
  | .adcAby v => show ∃ t, execAdcAby v s = .next t ∧ ExecDone s t from
    readInstr_done (by decide) (by decide) _ _ adcEffect_access s
  | .adcIzx v => show ∃ t, execAdcIzx v s = .next t ∧ ExecDone s t from
    readInstr_done (by decide) (by decide) _ _ adcEffect_access s
  | .adcIzy v => show ∃ t, execAdcIzy v s = .next t ∧ ExecDone s t from
    readInstr_done (by decide) (by decide) _ _ adcEffect_access s
  | .sbcImm v => show ∃ t, execSbcImm v s = .next t ∧ ExecDone s t from
    readInstr_done (by decide) (by decide) _ _ (fun m u => adcEffect_access (m ^^^ 0xFF) u) s
  | .sbcZp v => show ∃ t, execSbcZp v s = .next t ∧ ExecDone s t from
    readInstr_done (by decide) (by decide) _ _ (fun m u => adcEffect_access (m ^^^ 0xFF) u) s
  | .sbcZpx v => show ∃ t, execSbcZpx v s = .next t ∧ ExecDone s t from
    readInstr_done (by decide) (by decide) _ _ (fun m u => adcEffect_access (m ^^^ 0xFF) u) s
  | .sbcAbs v => show ∃ t, execSbcAbs v s = .next t ∧ ExecDone s t from
    readInstr_done (by decide) (by decide) _ _ (fun m u => adcEffect_access (m ^^^ 0xFF) u) s
  | .sbcAbx v => show ∃ t, execSbcAbx v s = .next t ∧ ExecDone s t from
    readInstr_done (by decide) (by decide) _ _ (fun m u => adcEffect_access (m ^^^ 0xFF) u) s
  | .sbcAby v => show ∃ t, execSbcAby v s = .next t ∧ ExecDone s t from
    readInstr_done (by decide) (by decide) _ _ (fun m u => adcEffect_access (m ^^^ 0xFF) u) s
  | .sbcIzx v => show ∃ t, execSbcIzx v s = .next t ∧ ExecDone s t from
    readInstr_done (by decide) (by decide) _ _ (fun m u => adcEffect_access (m ^^^ 0xFF) u) s
  | .sbcIzy v => show ∃ t, execSbcIzy v s = .next t ∧ ExecDone s t from
    readInstr_done (by decide) (by decide) _ _ (fun m u => adcEffect_access (m ^^^ 0xFF) u) s
  | .andImm v => show ∃ t, execAndImm v s = .next t ∧ ExecDone s t from
    readInstr_done (by decide) (by decide) _ _ (fun _ u => loadA_access _ u) s
  | .andZp v => show ∃ t, execAndZp v s = .next t ∧ ExecDone s t from
    readInstr_done (by decide) (by decide) _ _ (fun _ u => loadA_access _ u) s
  | .andZpx v => show ∃ t, execAndZpx v s = .next t ∧ ExecDone s t from
    readInstr_done (by decide) (by decide) _ _ (fun _ u => loadA_access _ u) s
  | .andAbs v => show ∃ t, execAndAbs v s = .next t ∧ ExecDone s t from
    readInstr_done (by decide) (by decide) _ _ (fun _ u => loadA_access _ u) s
  | .andAbx v => show ∃ t, execAndAbx v s = .next t ∧ ExecDone s t from
    readInstr_done (by decide) (by decide) _ _ (fun _ u => loadA_access _ u) s
  | .andAby v => show ∃ t, execAndAby v s = .next t ∧ ExecDone s t from
    readInstr_done (by decide) (by decide) _ _ (fun _ u => loadA_access _ u) s
  | .andIzx v => show ∃ t, execAndIzx v s = .next t ∧ ExecDone s t from
    readInstr_done (by decide) (by decide) _ _ (fun _ u => loadA_access _ u) s
  | .andIzy v => show ∃ t, execAndIzy v s = .next t ∧ ExecDone s t from
    readInstr_done (by decide) (by decide) _ _ (fun _ u => loadA_access _ u) s
  | .oraImm v => show ∃ t, execOraImm v s = .next t ∧ ExecDone s t from
    readInstr_done (by decide) (by decide) _ _ (fun _ u => loadA_access _ u) s
  | .oraZp v => show ∃ t, execOraZp v s = .next t ∧ ExecDone s t from
    readInstr_done (by decide) (by decide) _ _ (fun _ u => loadA_access _ u) s
  | .oraZpx v => show ∃ t, execOraZpx v s = .next t ∧ ExecDone s t from
    readInstr_done (by decide) (by decide) _ _ (fun _ u => loadA_access _ u) s
  | .oraAbs v => show ∃ t, execOraAbs v s = .next t ∧ ExecDone s t from
    readInstr_done (by decide) (by decide) _ _ (fun _ u => loadA_access _ u) s
  | .oraAbx v => show ∃ t, execOraAbx v s = .next t ∧ ExecDone s t from
    readInstr_done (by decide) (by decide) _ _ (fun _ u => loadA_access _ u) s
  | .oraAby v => show ∃ t, execOraAby v s = .next t ∧ ExecDone s t from
    readInstr_done (by decide) (by decide) _ _ (fun _ u => loadA_access _ u) s
  | .oraIzx v => show ∃ t, execOraIzx v s = .next t ∧ ExecDone s t from
    readInstr_done (by decide) (by decide) _ _ (fun _ u => loadA_access _ u) s
  | .oraIzy v => show ∃ t, execOraIzy v s = .next t ∧ ExecDone s t from
    readInstr_done (by decide) (by decide) _ _ (fun _ u => loadA_access _ u) s
  | .eorImm v => show ∃ t, execEorImm v s = .next t ∧ ExecDone s t from
    readInstr_done (by decide) (by decide) _ _ (fun _ u => loadA_access _ u) s
  | .eorZp v => show ∃ t, execEorZp v s = .next t ∧ ExecDone s t from
    readInstr_done (by decide) (by decide) _ _ (fun _ u => loadA_access _ u) s
  | .eorZpx v => show ∃ t, execEorZpx v s = .next t ∧ ExecDone s t from
    readInstr_done (by decide) (by decide) _ _ (fun _ u => loadA_access _ u) s
  | .eorAbs v => show ∃ t, execEorAbs v s = .next t ∧ ExecDone s t from
    readInstr_done (by decide) (by decide) _ _ (fun _ u => loadA_access _ u) s
  | .eorAbx v => show ∃ t, execEorAbx v s = .next t ∧ ExecDone s t from
    readInstr_done (by decide) (by decide) _ _ (fun _ u => loadA_access _ u) s
  | .eorAby v => show ∃ t, execEorAby v s = .next t ∧ ExecDone s t from
    readInstr_done (by decide) (by decide) _ _ (fun _ u => loadA_access _ u) s
  | .eorIzx v => show ∃ t, execEorIzx v s = .next t ∧ ExecDone s t from
    readInstr_done (by decide) (by decide) _ _ (fun _ u => loadA_access _ u) s
  | .eorIzy v => show ∃ t, execEorIzy v s = .next t ∧ ExecDone s t from
    readInstr_done (by decide) (by decide) _ _ (fun _ u => loadA_access _ u) s
  | .bitZp v => show ∃ t, execBitZp v s = .next t ∧ ExecDone s t from
    readInstr_done (by decide) (by decide) _ _ bitEffect_access s
  | .bitAbs v => show ∃ t, execBitAbs v s = .next t ∧ ExecDone s t from
    readInstr_done (by decide) (by decide) _ _ bitEffect_access s
  | .cmpImm v => show ∃ t, execCmpImm v s = .next t ∧ ExecDone s t from
    readInstr_done (by decide) (by decide) _ _ (fun m u => compareEffect_access _ m u) s
  | .cmpZp v => show ∃ t, execCmpZp v s = .next t ∧ ExecDone s t from
    readInstr_done (by decide) (by decide) _ _ (fun m u => compareEffect_access _ m u) s
  | .cmpZpx v => show ∃ t, execCmpZpx v s = .next t ∧ ExecDone s t from
    readInstr_done (by decide) (by decide) _ _ (fun m u => compareEffect_access _ m u) s
  | .cmpAbs v => show ∃ t, execCmpAbs v s = .next t ∧ ExecDone s t from
    readInstr_done (by decide) (by decide) _ _ (fun m u => compareEffect_access _ m u) s
  | .cmpAbx v => show ∃ t, execCmpAbx v s = .next t ∧ ExecDone s t from
    readInstr_done (by decide) (by decide) _ _ (fun m u => compareEffect_access _ m u) s
  | .cmpAby v => show ∃ t, execCmpAby v s = .next t ∧ ExecDone s t from
    readInstr_done (by decide) (by decide) _ _ (fun m u => compareEffect_access _ m u) s
  | .cmpIzx v => show ∃ t, execCmpIzx v s = .next t ∧ ExecDone s t from
    readInstr_done (by decide) (by decide) _ _ (fun m u => compareEffect_access _ m u) s
  | .cmpIzy v => show ∃ t, execCmpIzy v s = .next t ∧ ExecDone s t from
    readInstr_done (by decide) (by decide) _ _ (fun m u => compareEffect_access _ m u) s
  | .cpxImm v => show ∃ t, execCpxImm v s = .next t ∧ ExecDone s t from
    readInstr_done (by decide) (by decide) _ _ (fun m u => compareEffect_access _ m u) s
  | .cpxZp v => show ∃ t, execCpxZp v s = .next t ∧ ExecDone s t from
    readInstr_done (by decide) (by decide) _ _ (fun m u => compareEffect_access _ m u) s
  | .cpxAbs v => show ∃ t, execCpxAbs v s = .next t ∧ ExecDone s t from
    readInstr_done (by decide) (by decide) _ _ (fun m u => compareEffect_access _ m u) s
  | .cpyImm v => show ∃ t, execCpyImm v s = .next t ∧ ExecDone s t from
    readInstr_done (by decide) (by decide) _ _ (fun m u => compareEffect_access _ m u) s
  | .cpyZp v => show ∃ t, execCpyZp v s = .next t ∧ ExecDone s t from
    readInstr_done (by decide) (by decide) _ _ (fun m u => compareEffect_access _ m u) s
  | .cpyAbs v => show ∃ t, execCpyAbs v s = .next t ∧ ExecDone s t from
    readInstr_done (by decide) (by decide) _ _ (fun m u => compareEffect_access _ m u) s
  | .aslAcc => show ∃ t, execAslAcc s = .next t ∧ ExecDone s t from
    shiftAcc_done _ s
  | .aslZp v => show ∃ t, execAslZp v s = .next t ∧ ExecDone s t from
    shiftMem_done (by decide) (by decide) _ _ s
  | .aslZpx v => show ∃ t, execAslZpx v s = .next t ∧ ExecDone s t from
    shiftMem_done (by decide) (by decide) _ _ s
  | .aslAbs v => show ∃ t, execAslAbs v s = .next t ∧ ExecDone s t from
    shiftMem_done (by decide) (by decide) _ _ s
  | .aslAbx v => show ∃ t, execAslAbx v s = .next t ∧ ExecDone s t from
    shiftMem_done (by decide) (by decide) _ _ s
  | .lsrAcc => show ∃ t, execLsrAcc s = .next t ∧ ExecDone s t from
    shiftAcc_done _ s
  | .lsrZp v => show ∃ t, execLsrZp v s = .next t ∧ ExecDone s t from
    shiftMem_done (by decide) (by decide) _ _ s
  | .lsrZpx v => show ∃ t, execLsrZpx v s = .next t ∧ ExecDone s t from
    shiftMem_done (by decide) (by decide) _ _ s
  | .lsrAbs v => show ∃ t, execLsrAbs v s = .next t ∧ ExecDone s t from
    shiftMem_done (by decide) (by decide) _ _ s
  | .lsrAbx v => show ∃ t, execLsrAbx v s = .next t ∧ ExecDone s t from
    shiftMem_done (by decide) (by decide) _ _ s
  | .rolAcc => show ∃ t, execRolAcc s = .next t ∧ ExecDone s t from
    shiftAcc_done _ s
  | .rolZp v => show ∃ t, execRolZp v s = .next t ∧ ExecDone s t from
    shiftMem_done (by decide) (by decide) _ _ s
  | .rolZpx v => show ∃ t, execRolZpx v s = .next t ∧ ExecDone s t from
    shiftMem_done (by decide) (by decide) _ _ s
  | .rolAbs v => show ∃ t, execRolAbs v s = .next t ∧ ExecDone s t from
    shiftMem_done (by decide) (by decide) _ _ s
  | .rolAbx v => show ∃ t, execRolAbx v s = .next t ∧ ExecDone s t from
    shiftMem_done (by decide) (by decide) _ _ s
  | .rorAcc => show ∃ t, execRorAcc s = .next t ∧ ExecDone s t from
    shiftAcc_done _ s
  | .rorZp v => show ∃ t, execRorZp v s = .next t ∧ ExecDone s t from
    shiftMem_done (by decide) (by decide) _ _ s
  | .rorZpx v => show ∃ t, execRorZpx v s = .next t ∧ ExecDone s t from
    shiftMem_done (by decide) (by decide) _ _ s
  | .rorAbs v => show ∃ t, execRorAbs v s = .next t ∧ ExecDone s t from
    shiftMem_done (by decide) (by decide) _ _ s
  | .rorAbx v => show ∃ t, execRorAbx v s = .next t ∧ ExecDone s t from
    shiftMem_done (by decide) (by decide) _ _ s
  | .incZp v => show ∃ t, execIncZp v s = .next t ∧ ExecDone s t from
    stepMem_done (by decide) (by decide) _ _ s
  | .incZpx v => show ∃ t, execIncZpx v s = .next t ∧ ExecDone s t from
    stepMem_done (by decide) (by decide) _ _ s
  | .incAbs v => show ∃ t, execIncAbs v s = .next t ∧ ExecDone s t from
    stepMem_done (by decide) (by decide) _ _ s
  | .incAbx v => show ∃ t, execIncAbx v s = .next t ∧ ExecDone s t from
    stepMem_done (by decide) (by decide) _ _ s
  | .decZp v => show ∃ t, execDecZp v s = .next t ∧ ExecDone s t from
    stepMem_done (by decide) (by decide) _ _ s
  | .decZpx v => show ∃ t, execDecZpx v s = .next t ∧ ExecDone s t from
    stepMem_done (by decide) (by decide) _ _ s
  | .decAbs v => show ∃ t, execDecAbs v s = .next t ∧ ExecDone s t from
    stepMem_done (by decide) (by decide) _ _ s
  | .decAbx v => show ∃ t, execDecAbx v s = .next t ∧ ExecDone s t from
    stepMem_done (by decide) (by decide) _ _ s
  | .inx => show ∃ t, execInx s = .next t ∧ ExecDone s t from
    impliedInstr_done (by decide) (by decide) _ (fun u => loadX_access _ u) s
  | .iny => show ∃ t, execIny s = .next t ∧ ExecDone s t from
    impliedInstr_done (by decide) (by decide) _ (fun u => loadY_access _ u) s
  | .dex => show ∃ t, execDex s = .next t ∧ ExecDone s t from
    impliedInstr_done (by decide) (by decide) _ (fun u => loadX_access _ u) s
  | .dey => show ∃ t, execDey s = .next t ∧ ExecDone s t from
    impliedInstr_done (by decide) (by decide) _ (fun u => loadY_access _ u) s
  | .jmpAbs v => show ∃ t, execJmpAbs v s = .next t ∧ ExecDone s t from
    ⟨_, rfl, ((resolve_access _ s).trans (setPc_access _ _)).trans (setCyc_access _ _), .inr
      ⟨by rw [setCyc_cpu_cyc]; omega, by rw [setCyc_cpu_cyc]; omega⟩⟩
  | .jmpInd v => show ∃ t, execJmpInd v s = .next t ∧ ExecDone s t from
    ⟨_, rfl, (((advance_access 3 s).trans (readPointer_access _ _ _)).trans
      (setPc_access _ _)).trans (setCyc_access _ _), .inr
      ⟨by rw [setCyc_cpu_cyc]; omega, by rw [setCyc_cpu_cyc]; omega⟩⟩
  | .jsr v => show ∃ t, execJsr v s = .next t ∧ ExecDone s t from
    ⟨_, rfl, (((resolve_access _ s).trans (pushAddr_access _ _)).trans
      (setPc_access _ _)).trans (setCyc_access _ _), .inr
      ⟨by rw [setCyc_cpu_cyc]; omega, by rw [setCyc_cpu_cyc]; omega⟩⟩
  | .rts => show ∃ t, execRts s = .next t ∧ ExecDone s t from
    impliedInstr_done (by decide) (by decide) _ (fun u => (pullAddr_access u).trans (setPc_access _ _)) s
  | .rti => show ∃ t, execRti s = .next t ∧ ExecDone s t from
    impliedInstr_done (by decide) (by decide) _ returnFromInterrupt_access s
  | .brk => show ∃ t, execBrk s = .next t ∧ ExecDone s t from
    impliedInstr_done (by decide) (by decide) _ (fun u => enterInterrupt_access _ _ _ u) s
  | .bcc v => show ∃ t, execBcc v s = .next t ∧ ExecDone s t from
    branchInstr_done _ _ s
  | .bcs v => show ∃ t, execBcs v s = .next t ∧ ExecDone s t from
    branchInstr_done _ _ s
  | .beq v => show ∃ t, execBeq v s = .next t ∧ ExecDone s t from
    branchInstr_done _ _ s
  | .bne v => show ∃ t, execBne v s = .next t ∧ ExecDone s t from
    branchInstr_done _ _ s
  | .bmi v => show ∃ t, execBmi v s = .next t ∧ ExecDone s t from
    branchInstr_done _ _ s
  | .bpl v => show ∃ t, execBpl v s = .next t ∧ ExecDone s t from
    branchInstr_done _ _ s
  | .bvc v => show ∃ t, execBvc v s = .next t ∧ ExecDone s t from
    branchInstr_done _ _ s
  | .bvs v => show ∃ t, execBvs v s = .next t ∧ ExecDone s t from
    branchInstr_done _ _ s
  | .pha => show ∃ t, execPha s = .next t ∧ ExecDone s t from
    impliedInstr_done (by decide) (by decide) _ (fun u => push_access _ u) s
  | .php => show ∃ t, execPhp s = .next t ∧ ExecDone s t from
    impliedInstr_done (by decide) (by decide) _ (fun u => push_access _ u) s
  | .pla => show ∃ t, execPla s = .next t ∧ ExecDone s t from
    impliedInstr_done (by decide) (by decide) _ (fun u => (pull_access u).trans (loadA_access _ _)) s
  | .plp => show ∃ t, execPlp s = .next t ∧ ExecDone s t from
    impliedInstr_done (by decide) (by decide) _ (fun u => (pull_access u).trans (pulledStatus_access _ _)) s
  | .clc => show ∃ t, execClc s = .next t ∧ ExecDone s t from
    impliedInstr_done (by decide) (by decide) _ (fun u => putFlag_access (by decide) (by decide) _ u) s
  | .sec => show ∃ t, execSec s = .next t ∧ ExecDone s t from
    impliedInstr_done (by decide) (by decide) _ (fun u => putFlag_access (by decide) (by decide) _ u) s
  | .cli => show ∃ t, execCli s = .next t ∧ ExecDone s t from
    impliedInstr_done (by decide) (by decide) _ (fun u => putFlag_access (by decide) (by decide) _ u) s
  | .sei => show ∃ t, execSei s = .next t ∧ ExecDone s t from
    impliedInstr_done (by decide) (by decide) _ (fun u => putFlag_access (by decide) (by decide) _ u) s
  | .cld => show ∃ t, execCld s = .next t ∧ ExecDone s t from
    impliedInstr_done (by decide) (by decide) _ (fun u => putFlag_access (by decide) (by decide) _ u) s
  | .sed => show ∃ t, execSed s = .next t ∧ ExecDone s t from
    impliedInstr_done (by decide) (by decide) _ (fun u => putFlag_access (by decide) (by decide) _ u) s
  | .clv => show ∃ t, execClv s = .next t ∧ ExecDone s t from
    impliedInstr_done (by decide) (by decide) _ (fun u => putFlag_access (by decide) (by decide) _ u) s
  | .nop => show ∃ t, execNop s = .next t ∧ ExecDone s t from
    impliedInstr_done (by decide) (by decide) _ (fun u => Access.refl u) s

end Sys2Proof.Machine
end

