-- ==== Sys2Proof/Laws/Scroll.lean ====
section
/-! SUPPORT. The scroll-address updates, field by field (R33, R333 to R336). -/

namespace Sys2Proof.Machine

/-! ## A field of a bitwise combination -/

theorem and_field (v m : BitVec 15) (i n : Nat) :
    (v &&& m).toNat / 2 ^ i % 2 ^ n = (v.toNat / 2 ^ i % 2 ^ n) &&& (m.toNat / 2 ^ i % 2 ^ n) := by
  rw [BitVec.toNat_and, Nat.and_div_two_pow, Nat.and_mod_two_pow]

theorem or_field (v m : BitVec 15) (i n : Nat) :
    (v ||| m).toNat / 2 ^ i % 2 ^ n = (v.toNat / 2 ^ i % 2 ^ n) ||| (m.toNat / 2 ^ i % 2 ^ n) := by
  rw [BitVec.toNat_or, Nat.or_div_two_pow, Nat.or_mod_two_pow]

theorem xor_field (v m : BitVec 15) (i n : Nat) :
    (v ^^^ m).toNat / 2 ^ i % 2 ^ n = (v.toNat / 2 ^ i % 2 ^ n) ^^^ (m.toNat / 2 ^ i % 2 ^ n) := by
  rw [BitVec.toNat_xor, Nat.xor_div_two_pow, Nat.xor_mod_two_pow]

/-- A mask with a field all ones keeps the field; one with it all zeros clears it. -/
theorem mask_field (v m : BitVec 15) (i n : Nat) :
    (m.toNat / 2 ^ i % 2 ^ n = 2 ^ n - 1 → (v &&& m).toNat / 2 ^ i % 2 ^ n = v.toNat / 2 ^ i % 2 ^ n) ∧
    (m.toNat / 2 ^ i % 2 ^ n = 0 → (v &&& m).toNat / 2 ^ i % 2 ^ n = 0) := by
  rw [and_field]
  constructor
  · intro h
    rw [h, Nat.and_two_pow_sub_one_eq_mod, Nat.mod_mod]
  · intro h
    rw [h, Nat.and_zero]

/-- The five fields as fields of the number. -/
theorem coarseX_eq (v : BitVec 15) : coarseX v = v.toNat / 2 ^ 0 % 2 ^ 5 := by simp [coarseX]
theorem coarseY_eq (v : BitVec 15) : coarseY v = v.toNat / 2 ^ 5 % 2 ^ 5 := rfl
theorem nameX_eq (v : BitVec 15) : nameX v = v.toNat / 2 ^ 10 % 2 ^ 1 := rfl
theorem nameY_eq (v : BitVec 15) : nameY v = v.toNat / 2 ^ 11 % 2 ^ 1 := rfl
theorem fineY_eq (v : BitVec 15) : fineY v = v.toNat / 2 ^ 12 % 2 ^ 3 := by
  have := v.isLt
  simp only [fineY]; omega

/-- The number is the five fields put together. -/
theorem scroll_fields (v : BitVec 15) :
    v.toNat = coarseX v + 32 * coarseY v + 1024 * nameX v + 2048 * nameY v + 4096 * fineY v := by
  have := v.isLt
  simp only [coarseX, coarseY, nameX, nameY, fineY]; omega

/-! ## The four updates -/

/-- The horizontal copy (R335). -/
theorem copyHorizontal_fields (v t : BitVec 15) : ScrollFrom t v (copyHorizontal v t) := by
  constructor
  · rw [coarseX_eq, coarseX_eq, copyHorizontal, or_field, (mask_field _ _ _ _).2 (by decide),
      (mask_field _ _ _ _).1 (by decide), Nat.zero_or]
  · rw [nameX_eq, nameX_eq, copyHorizontal, or_field, (mask_field _ _ _ _).2 (by decide),
      (mask_field _ _ _ _).1 (by decide), Nat.zero_or]
  · rw [coarseY_eq, coarseY_eq, copyHorizontal, or_field, (mask_field _ _ _ _).1 (by decide),
      (mask_field _ _ _ _).2 (by decide), Nat.or_zero]
  · rw [nameY_eq, nameY_eq, copyHorizontal, or_field, (mask_field _ _ _ _).1 (by decide),
      (mask_field _ _ _ _).2 (by decide), Nat.or_zero]
  · rw [fineY_eq, fineY_eq, copyHorizontal, or_field, (mask_field _ _ _ _).1 (by decide),
      (mask_field _ _ _ _).2 (by decide), Nat.or_zero]

/-- The vertical copy (R336). -/
theorem copyVertical_fields (v t : BitVec 15) : ScrollFrom v t (copyVertical v t) := by
  constructor
  · rw [coarseX_eq, coarseX_eq, copyVertical, or_field, (mask_field _ _ _ _).1 (by decide),
      (mask_field _ _ _ _).2 (by decide), Nat.or_zero]
  · rw [nameX_eq, nameX_eq, copyVertical, or_field, (mask_field _ _ _ _).1 (by decide),
      (mask_field _ _ _ _).2 (by decide), Nat.or_zero]
  · rw [coarseY_eq, coarseY_eq, copyVertical, or_field, (mask_field _ _ _ _).2 (by decide),
      (mask_field _ _ _ _).1 (by decide), Nat.zero_or]
  · rw [nameY_eq, nameY_eq, copyVertical, or_field, (mask_field _ _ _ _).2 (by decide),
      (mask_field _ _ _ _).1 (by decide), Nat.zero_or]
  · rw [fineY_eq, fineY_eq, copyVertical, or_field, (mask_field _ _ _ _).2 (by decide),
      (mask_field _ _ _ _).1 (by decide), Nat.zero_or]

/-- Flipping one bit of a one-bit field. -/
theorem xor_one (x : Nat) (h : x < 2) : x ^^^ 1 = 1 - x := by
  match x, h with
  | 0, _ => rfl
  | 1, _ => rfl

/-- The horizontal increment (R333). -/
theorem incHorizontal_step (v : BitVec 15) : HorizontalStep v (incHorizontal v) := by
  have hv := v.isLt
  have hm : (v &&& 0x001F = 31) ↔ coarseX v = 31 := by
    rw [← BitVec.toNat_inj, BitVec.toNat_and]
    show v.toNat &&& (2 ^ 5 - 1) = 31 ↔ _
    rw [Nat.and_two_pow_sub_one_eq_mod]
    rfl
  unfold HorizontalStep incHorizontal
  by_cases h : coarseX v = 31
  · rw [if_pos (hm.mpr h), if_pos h]
    refine ⟨?_, ?_, ?_, ?_, ?_⟩
    · rw [coarseY_eq, coarseY_eq, xor_field, (mask_field _ _ _ _).1 (by decide)]
      exact Nat.xor_zero _
    · rw [nameY_eq, nameY_eq, xor_field, (mask_field _ _ _ _).1 (by decide)]
      exact Nat.xor_zero _
    · rw [fineY_eq, fineY_eq, xor_field, (mask_field _ _ _ _).1 (by decide)]
      exact Nat.xor_zero _
    · rw [coarseX_eq, xor_field, (mask_field _ _ _ _).2 (by decide)]; rfl
    · rw [nameX_eq, nameX_eq, xor_field, (mask_field _ _ _ _).1 (by decide)]
      exact xor_one _ (Nat.mod_lt _ (by decide))
  · rw [if_neg (fun hh => h (hm.mp hh)), if_neg h]
    have e : (v + 1).toNat = v.toNat + 1 := by
      rw [BitVec.toNat_add]; simp only [coarseX] at h; simp; omega
    simp only [coarseX, coarseY, nameX, nameY, fineY, e] at *
    omega

/-- The vertical increment (R334). -/
theorem incVertical_step (v : BitVec 15) : VerticalStep v (incVertical v) := by
  have hv := v.isLt
  have hf : (v.extractLsb' 12 3).toNat = fineY v := by
    rw [BitVec.extractLsb'_toNat, Nat.shiftRight_eq_div_pow, fineY_eq]
  have hy : (v.extractLsb' 5 5).toNat = coarseY v := by
    rw [BitVec.extractLsb'_toNat, Nat.shiftRight_eq_div_pow]; rfl
  have hu : (v &&& 0x0FFF).toNat = v.toNat % 4096 := by
    rw [BitVec.toNat_and]
    show v.toNat &&& (2 ^ 12 - 1) = _
    rw [Nat.and_two_pow_sub_one_eq_mod]
  have f7 : v.extractLsb' 12 3 ≠ 7 ↔ fineY v ≠ 7 := by
    rw [ne_eq, ← BitVec.toNat_inj, hf]; rfl
  have hf8 : fineY v < 8 := by simp only [fineY]; omega
  unfold VerticalStep incVertical
  by_cases h7 : fineY v = 7
  · have hlt : ¬ fineY v < 7 := by omega
    rw [if_neg (fun hh => f7.mp hh h7), if_neg hlt]
    have y29 : v.extractLsb' 5 5 = 29 ↔ coarseY v = 29 := by rw [← BitVec.toNat_inj, hy]; rfl
    have y31 : v.extractLsb' 5 5 = 31 ↔ coarseY v = 31 := by rw [← BitVec.toNat_inj, hy]; rfl
    have k : (v &&& 0x0FFF) &&& 0x7C1F = v &&& 0x0C1F := by rw [BitVec.and_assoc]; rfl
    simp only [y29, y31, k]
    by_cases h29 : coarseY v = 29
    · simp only [if_pos h29]
      refine ⟨?_, ?_, ?_, ?_, ?_⟩
      · rw [coarseX_eq, coarseX_eq, xor_field, (mask_field _ _ _ _).1 (by decide)]
        exact Nat.xor_zero _
      · rw [nameX_eq, nameX_eq, xor_field, (mask_field _ _ _ _).1 (by decide)]
        exact Nat.xor_zero _
      · rw [fineY_eq, xor_field, (mask_field _ _ _ _).2 (by decide)]; rfl
      · rw [coarseY_eq, xor_field, (mask_field _ _ _ _).2 (by decide)]; rfl
      · rw [nameY_eq, nameY_eq, xor_field, (mask_field _ _ _ _).1 (by decide)]
        exact xor_one _ (Nat.mod_lt _ (by decide))
    · simp only [if_neg h29]
      by_cases h31 : coarseY v = 31
      · simp only [if_pos h31]
        refine ⟨?_, ?_, ?_, ?_, ?_⟩
        · rw [coarseX_eq, coarseX_eq, (mask_field _ _ _ _).1 (by decide)]
        · rw [nameX_eq, nameX_eq, (mask_field _ _ _ _).1 (by decide)]
        · rw [fineY_eq, (mask_field _ _ _ _).2 (by decide)]
        · rw [coarseY_eq, (mask_field _ _ _ _).2 (by decide)]
        · rw [nameY_eq, nameY_eq, (mask_field _ _ _ _).1 (by decide)]
      · simp only [if_neg h31]
        have e : ((v &&& 0x0FFF) + 0x0020).toNat = v.toNat % 4096 + 32 := by
          rw [BitVec.toNat_add, hu]; simp; omega
        simp only [coarseX, coarseY, nameX, nameY, fineY, e] at *
        omega
  · have hlt : fineY v < 7 := by omega
    rw [if_pos (f7.mpr h7), if_pos hlt]
    have e : (v + 0x1000).toNat = v.toNat + 4096 := by
      rw [BitVec.toNat_add]; simp only [fineY] at h7 hf8; simp; omega
    simp only [coarseX, coarseY, nameX, nameY, fineY, e] at *
    omega

end Sys2Proof.Machine
end

