-- ==== Sys2Proof/Laws/Ppu.lean ====
section
/-! SUPPORT. What each event of a dot can do. -/

namespace Sys2Proof.Machine

/-- Everything the fetch pipelines, sprite evaluation and the scroll-address updates may write. -/
def PipeFrame (s t : State) : Prop :=
  t = { s with
    ppu := { s.ppu with
      v := t.ppu.v, sprovf := t.ppu.sprovf, ntByte := t.ppu.ntByte, atBits := t.ppu.atBits
      patLo := t.ppu.patLo, patHi := t.ppu.patHi, bgLo := t.ppu.bgLo, bgHi := t.ppu.bgHi
      atLo := t.ppu.atLo, atHi := t.ppu.atHi, sec := t.ppu.sec, secCount := t.ppu.secCount
      spr0cand := t.ppu.spr0cand, su := t.ppu.su, a12Prev := t.ppu.a12Prev }
    mapper := { s.mapper with
      irqPending := t.mapper.irqPending
      scan := { s.mapper.scan with
        irqCounter := t.mapper.scan.irqCounter, irqReload := t.mapper.scan.irqReload } } }

theorem PipeFrame.refl (s : State) : PipeFrame s s := rfl

theorem PipeFrame.trans {s t u : State} (h : PipeFrame s t) (k : PipeFrame t u) : PipeFrame s u := by
  unfold PipeFrame at *
  rw [h] at k
  exact k

/-- The same for an update of the Picture Generator alone. -/
def PpuPipe (p q : Ppu) : Prop :=
  q = { p with
    v := q.v, sprovf := q.sprovf, ntByte := q.ntByte, atBits := q.atBits, patLo := q.patLo
    patHi := q.patHi, bgLo := q.bgLo, bgHi := q.bgHi, atLo := q.atLo, atHi := q.atHi, sec := q.sec
    secCount := q.secCount, spr0cand := q.spr0cand, su := q.su, a12Prev := q.a12Prev }

theorem mapPpu_pipe {s : State} {f : Ppu → Ppu} (h : PpuPipe s.ppu (f s.ppu)) : PipeFrame s (s.mapPpu f) := by
  show s.mapPpu f = _
  simp only [State.mapPpu]
  unfold PpuPipe at h
  generalize f s.ppu = q at *
  rw [h]

/-! ## The counter and its edge detector -/

theorem advanceCounter_scan (c : Config) (m : Mapper) : advanceCounter c m = { m with
    irqPending := (advanceCounter c m).irqPending
    scan := { m.scan with
      irqCounter := (advanceCounter c m).scan.irqCounter
      irqReload := (advanceCounter c m).scan.irqReload } } := by
  unfold advanceCounter
  cases c.variant <;> rfl

/-- `PatFetch` in one equation: the byte, the edge detector, the Mapper's counter (R500). -/
theorem patFetch_eq (a : PAddr) (s : State) : patFetch a s = (ppuRead s a,
    { s with
      ppu := { s.ppu with a12Prev := a[12] }
      mapper := if a[12] && !s.ppu.a12Prev then advanceCounter s.cfg s.mapper else s.mapper }) := by
  have hr : ∀ m : Mapper, (∃ p q r, m = { s.mapper with irqPending := p, scan := { s.mapper.scan with
      irqCounter := q, irqReload := r } }) → ∀ b : Bool,
      ppuRead { s with mapper := m, ppu := { s.ppu with a12Prev := b } } a = ppuRead s a := by
    rintro m ⟨p, q, r, rfl⟩ b; rfl
  unfold patFetch
  cases h : a[12] && !s.ppu.a12Prev with
  | true =>
    simp only [if_true]
    refine Prod.ext (hr _ ⟨_, _, _, advanceCounter_scan s.cfg s.mapper⟩ _) rfl
  | false => rfl

theorem patFetch_pipe (a : PAddr) (s : State) : PipeFrame s (patFetch a s).2 := by
  rw [patFetch_eq]
  show _ = _
  cases h : a[12] && !s.ppu.a12Prev with
  | true =>
    simp only [if_true]
    have := advanceCounter_scan s.cfg s.mapper
    generalize advanceCounter s.cfg s.mapper = m at *
    rw [this]
  | false => rfl

/-- The picture-generator space reads the same after anything the pipelines do. -/
theorem PipeFrame.ppuRead {s t : State} (h : PipeFrame s t) (a : PAddr) :
    Machine.ppuRead t a = Machine.ppuRead s a := by
  rw [h]; rfl

/-! ## The events -/

theorem incHorizontal_pipe (s : State) : PipeFrame s (s.mapPpu Ppu.loadGroup) := mapPpu_pipe rfl

theorem shift_pipe (s : State) : PipeFrame s (s.mapPpu Ppu.shiftBackground) := mapPpu_pipe rfl

theorem fetchPhase_pipe (d : Nat) (s : State) : PipeFrame s (fetchPhase d s) := by
  unfold fetchPhase
  split
  · exact mapPpu_pipe rfl
  · simp only [fetchNametable]; exact mapPpu_pipe rfl
  · simp only [fetchAttribute]; exact mapPpu_pipe rfl
  · simp only [fetchPatternLow]; exact (patFetch_pipe _ s).trans (mapPpu_pipe rfl)
  · simp only [fetchPatternHigh]; exact (patFetch_pipe _ s).trans (mapPpu_pipe rfl)
  · exact PipeFrame.refl s

theorem backgroundDot_pipe (d : Nat) (s : State) : PipeFrame s (backgroundDot d s) :=
  (shift_pipe s).trans (fetchPhase_pipe d _)

theorem scanSprite_pipe (sl : Int) (p : Ppu) (n : Nat) : PpuPipe p (scanSprite sl p n) := by
  unfold scanSprite
  split
  · split <;> rfl
  · rfl

theorem PpuPipe.trans {p q r : Ppu} (h : PpuPipe p q) (k : PpuPipe q r) : PpuPipe p r := by
  unfold PpuPipe at *
  rw [h] at k
  exact k

theorem scanSprites_pipe (sl : Int) (l : List Nat) (p : Ppu) : PpuPipe p (l.foldl (scanSprite sl) p) := by
  induction l generalizing p with
  | nil => rfl
  | cons n l ih => exact (scanSprite_pipe sl p n).trans (ih _)

theorem evaluateSprites_pipe (sl : Int) (p : Ppu) : PpuPipe p (p.evaluateSprites sl) :=
  PpuPipe.trans (q := { p with secCount := 0, spr0cand := false }) rfl (scanSprites_pipe sl _ _)

theorem fetchSprite_pipe (sl : Int) (s : State) (i : Nat) : PipeFrame s (fetchSprite sl s i) := by
  simp only [fetchSprite]
  exact ((patFetch_pipe _ s).trans (patFetch_pipe _ _)).trans (mapPpu_pipe rfl)

theorem fetchSprites_pipe (sl : Int) (s : State) : PipeFrame s (fetchSprites sl s) := by
  unfold fetchSprites
  generalize List.range 8 = l
  induction l generalizing s with
  | nil => exact PipeFrame.refl s
  | cons i l ih => exact (fetchSprite_pipe sl s i).trans (ih _)

theorem renderEvents_pipe (sl : Int) (d : Nat) (s : State) : PipeFrame s (renderEvents sl d s) := by
  simp only [renderEvents]
  have h3 : PipeFrame s (if inFetchWindow d = true then backgroundDot d s else s) := by
    split
    · exact backgroundDot_pipe d s
    · exact PipeFrame.refl s
  generalize (if inFetchWindow d = true then backgroundDot d s else s) = s3 at *
  have h4 : PipeFrame s3 (if d = 256 ∧ 0 ≤ sl then
      s3.mapPpu fun p => { p with v := incVertical p.v } else s3) := by
    split
    · exact mapPpu_pipe rfl
    · exact PipeFrame.refl s3
  generalize (if d = 256 ∧ 0 ≤ sl then
      s3.mapPpu fun p => { p with v := incVertical p.v } else s3) = s4 at *
  have h5 : PipeFrame s4 (if d = 256 then s4.mapPpu (Ppu.evaluateSprites sl) else s4) := by
    split
    · exact mapPpu_pipe (evaluateSprites_pipe sl _)
    · exact PipeFrame.refl s4
  generalize (if d = 256 then s4.mapPpu (Ppu.evaluateSprites sl) else s4) = s5 at *
  have h := (h3.trans h4).trans h5
  split
  · refine (h.trans (mapPpu_pipe ?_)).trans (fetchSprites_pipe sl _)
    rfl
  · exact h

theorem verticalCopyEvent_pipe (sl : Int) (d : Nat) (s : State) :
    PipeFrame s (verticalCopyEvent sl d s) := by
  unfold verticalCopyEvent
  split
  · exact mapPpu_pipe rfl
  · exact PipeFrame.refl s

/-- What the pixel event may write: the framebuffer, the sprite-zero-hit flag, the sprite units. -/
def PixelFrame (s t : State) : Prop :=
  t = { s with ppu := { s.ppu with fb := t.ppu.fb, spr0hit := t.ppu.spr0hit, su := t.ppu.su } }

theorem pixelEvent_frame (sl : Int) (d : Nat) (s : State) : PixelFrame s (pixelEvent sl d s) := by
  unfold pixelEvent
  split
  · show _ = _
    simp only [State.mapPpu, Ppu.composite]
    split <;> rfl
  · rfl

/-- What the flag events may write: the three status flags, the interrupt line, the history. -/
def FlagFrame (s t : State) : Prop :=
  t = { s with
    ppu := { s.ppu with
      vblank := t.ppu.vblank, spr0hit := t.ppu.spr0hit, sprovf := t.ppu.sprovf
      nmiLine := t.ppu.nmiLine }
    events := t.events }

theorem flagEvents_frame (sl : Int) (d : Nat) (s : State) : FlagFrame s (flagEvents sl d s) := by
  unfold flagEvents
  split
  · split
    · rfl
    · split <;> rfl
  · rfl

/-- The state before the counters advance: everything one dot does but item (8) of R320. -/
def dotEvents (s : State) : State :=
  let s2 := pixelEvent s.ppu.scanline s.ppu.dot (flagEvents s.ppu.scanline s.ppu.dot s)
  let s6 := if s.ppu.rendering = true ∧ -1 ≤ s.ppu.scanline ∧ s.ppu.scanline ≤ 239 then
    renderEvents s.ppu.scanline s.ppu.dot s2 else s2
  if s.ppu.rendering = true then verticalCopyEvent s.ppu.scanline s.ppu.dot s6 else s6

theorem ppuStep_eq (s : State) :
    ppuStep s = (dotEvents s).mapPpu (Ppu.advanceCounters s.ppu.rendering) := rfl

/-- The three parts of a dot's events. -/
theorem dotEvents_parts (s : State) : ∃ a b, FlagFrame s a ∧ PixelFrame a b ∧ PipeFrame b (dotEvents s) ∧
    a = flagEvents s.ppu.scanline s.ppu.dot s ∧ b = pixelEvent s.ppu.scanline s.ppu.dot a := by
  refine ⟨_, _, flagEvents_frame _ _ s, pixelEvent_frame _ _ _, ?_, rfl, rfl⟩
  simp only [dotEvents]
  generalize pixelEvent s.ppu.scanline s.ppu.dot (flagEvents s.ppu.scanline s.ppu.dot s) = s2
  have h6 : PipeFrame s2 (if s.ppu.rendering = true ∧ -1 ≤ s.ppu.scanline ∧ s.ppu.scanline ≤ 239 then
      renderEvents s.ppu.scanline s.ppu.dot s2 else s2) := by
    split
    · exact renderEvents_pipe _ _ _
    · exact PipeFrame.refl _
  generalize (if s.ppu.rendering = true ∧ -1 ≤ s.ppu.scanline ∧ s.ppu.scanline ≤ 239 then
      renderEvents s.ppu.scanline s.ppu.dot s2 else s2) = s6 at *
  split
  · exact h6.trans (verticalCopyEvent_pipe _ _ _)
  · exact h6

/-- What the counter advance may write. -/
theorem advanceCounters_frame (ren : Bool) (p : Ppu) : p.advanceCounters ren = { p with
    dot := (p.advanceCounters ren).dot, scanline := (p.advanceCounters ren).scanline
    odd := (p.advanceCounters ren).odd } := by
  unfold Ppu.advanceCounters
  split
  · split <;> rfl
  · rfl

/-- What a dot's events but the counters may write. -/
def EventFrame (s t : State) : Prop :=
  t = { s with
    ppu := { s.ppu with
      v := t.ppu.v, vblank := t.ppu.vblank, spr0hit := t.ppu.spr0hit, sprovf := t.ppu.sprovf
      nmiLine := t.ppu.nmiLine, ntByte := t.ppu.ntByte, atBits := t.ppu.atBits
      patLo := t.ppu.patLo, patHi := t.ppu.patHi, bgLo := t.ppu.bgLo, bgHi := t.ppu.bgHi
      atLo := t.ppu.atLo, atHi := t.ppu.atHi, sec := t.ppu.sec, secCount := t.ppu.secCount
      spr0cand := t.ppu.spr0cand, su := t.ppu.su, fb := t.ppu.fb, a12Prev := t.ppu.a12Prev }
    mapper := { s.mapper with
      irqPending := t.mapper.irqPending
      scan := { s.mapper.scan with
        irqCounter := t.mapper.scan.irqCounter, irqReload := t.mapper.scan.irqReload } }
    events := t.events }

theorem EventFrame.trans {s t u : State} (h : EventFrame s t) (k : EventFrame t u) : EventFrame s u := by
  unfold EventFrame at *
  rw [h] at k
  exact k

theorem FlagFrame.event {s t : State} (h : FlagFrame s t) : EventFrame s t := by
  unfold FlagFrame at h
  unfold EventFrame
  rw [h]

theorem PixelFrame.event {s t : State} (h : PixelFrame s t) : EventFrame s t := by
  unfold PixelFrame at h
  unfold EventFrame
  rw [h]

theorem PipeFrame.event {s t : State} (h : PipeFrame s t) : EventFrame s t := by
  unfold PipeFrame at h
  unfold EventFrame
  rw [h]

theorem dotEvents_frame (s : State) : EventFrame s (dotEvents s) := by
  obtain ⟨a, b, h1, h2, h3, -, -⟩ := dotEvents_parts s
  exact (h1.event.trans h2.event).trans h3.event

/-- What a dot may write: what its events write, and the counters. -/
def TickFrame (s t : State) : Prop :=
  t = { s with
    ppu := { s.ppu with
      v := t.ppu.v, vblank := t.ppu.vblank, spr0hit := t.ppu.spr0hit, sprovf := t.ppu.sprovf
      nmiLine := t.ppu.nmiLine, ntByte := t.ppu.ntByte, atBits := t.ppu.atBits
      patLo := t.ppu.patLo, patHi := t.ppu.patHi, bgLo := t.ppu.bgLo, bgHi := t.ppu.bgHi
      atLo := t.ppu.atLo, atHi := t.ppu.atHi, sec := t.ppu.sec, secCount := t.ppu.secCount
      spr0cand := t.ppu.spr0cand, su := t.ppu.su, fb := t.ppu.fb, a12Prev := t.ppu.a12Prev
      dot := t.ppu.dot, scanline := t.ppu.scanline, odd := t.ppu.odd }
    mapper := { s.mapper with
      irqPending := t.mapper.irqPending
      scan := { s.mapper.scan with
        irqCounter := t.mapper.scan.irqCounter, irqReload := t.mapper.scan.irqReload } }
    events := t.events }

theorem TickFrame.trans {s t u : State} (h : TickFrame s t) (k : TickFrame t u) : TickFrame s u := by
  unfold TickFrame at *
  rw [h] at k
  exact k

/-- The counter advance as an update of the counters alone. -/
theorem advance_tick {u : State} {ren : Bool} : TickFrame u (u.mapPpu (Ppu.advanceCounters ren)) := by
  have h := advanceCounters_frame ren u.ppu
  unfold TickFrame State.mapPpu
  generalize u.ppu.advanceCounters ren = q at *
  rw [h]

theorem EventFrame.tick {s t : State} (h : EventFrame s t) : TickFrame s t := by
  unfold EventFrame at h
  unfold TickFrame
  rw [h]

/-- Everything one dot may write (R320). -/
theorem ppuStep_tick (s : State) : TickFrame s (ppuStep s) :=
  (dotEvents_frame s).tick.trans advance_tick

/-- A dot leaves the Processor, the configuration, the step count and every byte of plain memory. -/
theorem TickFrame.keeps {s t : State} (h : TickFrame s t) :
    t.cpu = s.cpu ∧ t.cfg = s.cfg ∧ t.stepCount = s.stepCount ∧ ∀ a, t.peek a = s.peek a := by
  have hm : ∀ i, prgWin t.cfg t.mapper i = prgWin s.cfg s.mapper i := fun i => by
    unfold TickFrame at h; rw [h]; rfl
  have hw : t.wram = s.wram := by unfold TickFrame at h; rw [h]
  have hc : t.cartRam = s.cartRam := by unfold TickFrame at h; rw [h]
  refine ⟨?_, ?_, ?_, fun a => by simp only [State.peek, hm, hw, hc]⟩ <;>
    (unfold TickFrame at h; rw [h])

/-- The counters of a dot depend on the counters and on rendering alone (R321). -/
theorem ppuStep_counters (s : State) :
    (ppuStep s).ppu.dot = (s.ppu.advanceCounters s.ppu.rendering).dot ∧
    (ppuStep s).ppu.scanline = (s.ppu.advanceCounters s.ppu.rendering).scanline ∧
    (ppuStep s).ppu.odd = (s.ppu.advanceCounters s.ppu.rendering).odd := by
  have h := dotEvents_frame s
  rw [ppuStep_eq]
  unfold EventFrame at h
  generalize dotEvents s = u at *
  generalize s.ppu.rendering = r
  have hd : u.ppu.dot = s.ppu.dot := by rw [h]
  have hs : u.ppu.scanline = s.ppu.scanline := by rw [h]
  have ho : u.ppu.odd = s.ppu.odd := by rw [h]
  simp only [State.mapPpu, Ppu.advanceCounters, hd, hs, ho]
  split
  · split <;> exact ⟨rfl, rfl, rfl⟩
  · exact ⟨rfl, hs.symm ▸ hs, ho.symm ▸ ho⟩

end Sys2Proof.Machine
end

