-- ==== Sys2Proof/Laws/Step.lean ====
section
/-! SUPPORT. What a fetch, a boundary action, a Processor step and a system tick can do. -/

namespace Sys2Proof.Machine

/-- A fetch only reads. -/
theorem fetch_frame (s : State) : ReadFrame s (fetch s).2 := by
  simp only [fetch]
  split
  · exact busRead_frame _ s
  · exact busRead_frame _ s
  · exact (busRead_frame _ s).trans (busRead_frame _ _)
  · exact ((busRead_frame _ s).trans (busRead_frame _ _)).trans (busRead_frame _ _)

theorem fetch_access (s : State) : Access s (fetch s).2 := by
  simp only [fetch]
  split
  · exact (Access.refl s).read _
  · exact (Access.refl s).read _
  · exact ((Access.refl s).read _).read _
  · exact (((Access.refl s).read _).read _).read _

/-- A fetch that finds no instruction has read one byte, and that byte is in no row of R130. -/
theorem fetch_unrecognized {s s1 : State} {op : Byte} (h : fetch s = (.unrecognized op, s1)) :
    busRead s.cpu.pc s = (op, s1) ∧ decodeOpcode op = none := by
  simp only [fetch] at h
  split at h
  · next hd =>
    simp only [Prod.mk.injEq, Fetched.unrecognized.injEq] at h
    obtain ⟨rfl, rfl⟩ := h
    exact ⟨rfl, hd⟩
  · simp at h
  · simp at h
  · simp at h

/-- Everything a boundary action can be (R161). -/
theorem boundary_cases (s : State) : ∃ t, boundary s = .next t ∧
    (pollResult s = .nmi ∧ t = (service nmiVector (afterPoll s)).setCyc 7 ∨
     pollResult s = .irq ∧ t = (service irqVector (afterPoll s)).setCyc 7 ∨
     pollResult s = .nothing ∧
       ((∃ i s1, fetch (afterPoll s) = (.instr i, s1) ∧ exec i s1 = .next t) ∨
        (∃ op s1, fetch (afterPoll s) = (.unrecognized op, s1) ∧
          t = s1.raiseHalt .unrecognizedOpcode s.cpu.pc op none))) := by
  unfold boundary
  cases hp : pollResult s with
  | nmi => exact ⟨_, rfl, .inl ⟨rfl, rfl⟩⟩
  | irq => exact ⟨_, rfl, .inr (.inl ⟨rfl, rfl⟩)⟩
  | nothing =>
    simp only [fetchAndExec]
    match hf : fetch (afterPoll s) with
    | (.instr i, s1) =>
      obtain ⟨t, ht, -⟩ := exec_done i s1
      exact ⟨t, ht, .inr (.inr ⟨trivial, .inl ⟨i, s1, rfl, ht⟩⟩)⟩
    | (.unrecognized op, s1) =>
      exact ⟨_, rfl, .inr (.inr ⟨trivial, .inr ⟨op, s1, rfl, rfl⟩⟩)⟩

/-- Everything a Processor step can be (R160). -/
theorem cpuStep_cases (s : State) : ∃ t, cpuStep s = .next t ∧
    (s.cpu.halted = true ∧ t = countStep s ∨
     s.cpu.halted = false ∧ s.cpu.cyc ≠ 0 ∧ t = (countStep s).setCyc (s.cpu.cyc - 1) ∨
     s.cpu.halted = false ∧ s.cpu.cyc = 0 ∧
       ∃ u, boundary (countStep s) = .next u ∧ t = countDown u) := by
  unfold cpuStep
  cases hh : s.cpu.halted with
  | true =>
    have : (countStep s).cpu.halted = true := hh
    simp only [this, if_true]
    exact ⟨_, rfl, .inl ⟨trivial, rfl⟩⟩
  | false =>
    have h : (countStep s).cpu.halted = false := hh
    simp only [h]
    by_cases hc : s.cpu.cyc = 0
    · have h0 : (countStep s).cpu.cyc = 0 := hc
      obtain ⟨u, hu, -⟩ := boundary_cases (countStep s)
      simp only [h0, if_true, hu, Out.map]
      exact ⟨_, rfl, .inr (.inr ⟨trivial, hc, u, rfl, rfl⟩)⟩
    · have h0 : (countStep s).cpu.cyc ≠ 0 := hc
      simp only [h0, if_false]
      refine ⟨_, rfl, .inr (.inl ⟨trivial, hc, ?_⟩)⟩
      rw [countDown, h]
      rfl

/-- A system tick is a Processor step and three dots, and never stops (R9, R523). -/
theorem step_eq {s t : State} (h : cpuStep s = .next t) : step s = .next (threeDots t) := by
  rw [step, h]; rfl

/-! ## Keeping a property -/

/-- What a Processor step does, a property keeps, if bus accesses, register writes, the bookkeeping
of the step and a halt keep it. -/
theorem cpuStep_keeps {P : State → Prop} {s t : State} (h : cpuStep s = .next t) (hs : P s)
    (hcount : ∀ u, P u → P (countStep u)) (hacc : ∀ u v, Access u v → P u → P v)
    (hpoll : ∀ u, P u → P (afterPoll u))
    (hhalt : ∀ u a op, P u → P (u.raiseHalt .unrecognizedOpcode a op none)) : P t := by
  obtain ⟨t', ht, hc⟩ := cpuStep_cases s
  rw [h] at ht
  cases ht
  rcases hc with ⟨-, rfl⟩ | ⟨-, -, rfl⟩ | ⟨-, -, u, hu, rfl⟩
  · exact hcount s hs
  · exact hacc _ _ (setCyc_access ..) (hcount s hs)
  · have hb : P u := by
      obtain ⟨u', hu', hc⟩ := boundary_cases (countStep s)
      rw [hu] at hu'
      cases hu'
      have hp := hpoll _ (hcount s hs)
      rcases hc with ⟨-, rfl⟩ | ⟨-, rfl⟩ | ⟨-, ⟨i, s1, hf, he⟩ | ⟨op, s1, hf, rfl⟩⟩
      · exact hacc _ _ ((service_access ..).trans (setCyc_access ..)) hp
      · exact hacc _ _ ((service_access ..).trans (setCyc_access ..)) hp
      · obtain ⟨v, hv, hd⟩ := exec_done i s1
        rw [he] at hv
        cases hv
        have := fetch_access (afterPoll (countStep s))
        rw [hf] at this
        exact hacc _ _ (this.trans hd.access) hp
      · have := fetch_access (afterPoll (countStep s))
        rw [hf] at this
        exact hhalt _ _ _ (hacc _ _ this hp)
    unfold countDown
    split
    · exact hb
    · exact hacc _ _ (setCyc_access ..) hb

/-- What a system tick does, a property keeps, if the Processor step and a dot keep it. -/
theorem step_keeps {P : State → Prop} {s t : State} (h : step s = .next t) (hs : P s)
    (hcpu : ∀ u v, cpuStep u = .next v → P u → P v) (hdot : ∀ u, P u → P (ppuStep u)) : P t := by
  obtain ⟨v, hv, -⟩ := cpuStep_cases s
  rw [step_eq hv] at h
  cases h
  exact hdot _ (hdot _ (hdot _ (hcpu s v hv hs)))

theorem threeDots_tick (s : State) : TickFrame s (threeDots s) :=
  ((ppuStep_tick s).trans (ppuStep_tick _)).trans (ppuStep_tick _)

/-- A tick that meets no boundary: the countdown, or nothing for a halted Processor, and three dots. -/
theorem step_counting {s : State} (h : s.cpu.halted = false) (hc : s.cpu.cyc ≠ 0) :
    step s = .next (threeDots ((countStep s).setCyc (s.cpu.cyc - 1))) := by
  obtain ⟨t, ht, hcase⟩ := cpuStep_cases s
  rw [step_eq ht]
  rcases hcase with ⟨hh, -⟩ | ⟨-, -, rfl⟩ | ⟨-, h0, -⟩
  · rw [h] at hh; cases hh
  · rfl
  · exact absurd h0 hc

theorem step_halted {s : State} (h : s.cpu.halted = true) : step s = .next (threeDots (countStep s)) := by
  obtain ⟨t, ht, hcase⟩ := cpuStep_cases s
  rw [step_eq ht]
  rcases hcase with ⟨-, rfl⟩ | ⟨hh, -⟩ | ⟨hh, -⟩
  · rfl
  · rw [h] at hh; cases hh
  · rw [h] at hh; cases hh

/-- A tick at a boundary: the boundary action, the countdown, three dots. -/
theorem step_boundary {s u : State} (h : s.cpu.halted = false) (hc : s.cpu.cyc = 0)
    (hb : boundary (countStep s) = .next u) : step s = .next (threeDots (countDown u)) := by
  obtain ⟨t, ht, hcase⟩ := cpuStep_cases s
  rw [step_eq ht]
  rcases hcase with ⟨hh, -⟩ | ⟨-, h0, -⟩ | ⟨-, -, u', hu, rfl⟩
  · rw [h] at hh; cases hh
  · exact absurd hc h0
  · rw [hb] at hu; cases hu; rfl

end Sys2Proof.Machine
end

