-- ==== Sys2Proof/Laws/Dot.lean ====
section
/-! SUPPORT. What one dot does,
    part by part: the events before the pipelines, the pipelines, the counters; and the addresses the pipelines read, in whole numbers. -/

namespace Sys2Proof.Machine

theorem rendering_iff (s : State) : s.ppu.rendering = true ↔ (s.ppu.mask.getLsbD 3 =
    true ∨ s.ppu.mask.getLsbD 4 = true) := by
  simp [Ppu.rendering]

theorem inFetchWindow_iff (d : Nat) : inFetchWindow d = true ↔ fetchDot d := by
  simp [inFetchWindow, fetchDot]

theorem rendersLine_iff (s : State) : rendersLine s ↔ (s.ppu.rendering = true ∧
    -1 ≤ s.ppu.scanline ∧ s.ppu.scanline ≤ 239) := by
  rw [rendersLine, rendering_iff]

/-- The state the pipelines of a dot start from: items (1) and (2) of R320 done. -/
def dotBase (s : State) : State :=
    pixelEvent s.ppu.scanline s.ppu.dot (flagEvents s.ppu.scanline s.ppu.dot s)

/-- What items (1) and (2) of a dot can change. -/
theorem dotBase_frame (s : State) : dotBase s =
    { s with ppu := { s.ppu with
      fb := (dotBase s).ppu.fb, spr0hit := (dotBase s).ppu.spr0hit, su := (dotBase s).ppu.su,
      vblank := (dotBase s).ppu.vblank, sprovf := (dotBase s).ppu.sprovf,
      nmiLine := (dotBase s).ppu.nmiLine }, events := (dotBase s).events } := by
  have h1 := flagEvents_frame s.ppu.scanline s.ppu.dot s
  have h2 := pixelEvent_frame s.ppu.scanline s.ppu.dot (flagEvents s.ppu.scanline s.ppu.dot s)
  unfold FlagFrame at h1
  unfold PixelFrame at h2
  show pixelEvent _ _ _ = _
  unfold dotBase
  rw [h2, h1]

/-- A dot, in parts (R320, R321). -/
theorem ppuStep_parts (s : State) : (ppuStep s) = (if s.ppu.rendering =
    true then verticalCopyEvent s.ppu.scanline s.ppu.dot (if rendersLine s then renderEvents s.ppu.scanline s.ppu.dot (dotBase s) else dotBase s) else (dotBase s)).mapPpu (Ppu.advanceCounters s.ppu.rendering) := by
  rw [ppuStep_eq]
  congr 1
  simp only [dotEvents]
  have : (if s.ppu.rendering = true ∧ -1 ≤ s.ppu.scanline ∧ s.ppu.scanline ≤ 239 then
      renderEvents s.ppu.scanline s.ppu.dot (dotBase s) else dotBase s) =
          (if rendersLine s then renderEvents s.ppu.scanline s.ppu.dot (dotBase s) else dotBase s) := by
    simp only [rendersLine_iff]
  show (if _ then verticalCopyEvent _ _ (if _ then renderEvents _ _ (dotBase s) else (dotBase s)) else (if _ then renderEvents _ _ (dotBase s) else (dotBase s))) = _
  rw [this]
  split
  · rfl
  · next h => rw [if_neg (fun hh => h ((rendering_iff s).mpr hh.1))]

/-- The counter advance changes the counters only. -/
theorem advanceCounters_keeps {α : Type} (f : Ppu → α) (hf : ∀ p d sl o,
    f { p with dot := d, scanline := sl, odd := o } = f p) (u : State) (r : Bool) :
        f (u.mapPpu (Ppu.advanceCounters r)).ppu = f u.ppu := by
  simp only [State.mapPpu]; rw [advanceCounters_frame]; exact hf ..

theorem backgroundDot_v (d : Nat) (s : State) : (backgroundDot d s).ppu.v = if d % 8 =
    0 then incHorizontal s.ppu.v else s.ppu.v := by
  have hd : d % 8 < 8 := Nat.mod_lt _ (by decide)
  simp only [backgroundDot, fetchPhase]
  generalize d % 8 = k at *
  match k, hd with
  | 0, _ => rfl
  | 1, _ => rfl
  | 2, _ => rfl
  | 3, _ => rfl
  | 4, _ => rfl
  | 5, _ => simp only [fetchPatternLow, patFetch_eq]; rfl
  | 6, _ => rfl
  | 7, _ => simp only [fetchPatternHigh, patFetch_eq]; rfl

theorem fetchSprites_v (sl : Int) (s : State) : (fetchSprites sl s).ppu.v = s.ppu.v := by
  unfold fetchSprites
  generalize List.range 8 = l
  induction l generalizing s with
  | nil => rfl
  | cons i l ih => rw [List.foldl_cons, ih]; simp only [fetchSprite, patFetch_eq]; rfl

theorem scanSprites_v (sl : Int) (l : List Nat) (p : Ppu) : (l.foldl (scanSprite sl) p).v = p.v ∧
    (l.foldl (scanSprite sl) p).t = p.t := by
  induction l generalizing p with
  | nil => exact ⟨rfl, rfl⟩
  | cons n l ih =>
    rw [List.foldl_cons]
    obtain ⟨a, b⟩ := ih (scanSprite sl p n)
    rw [a, b]; unfold scanSprite; split
    · split <;> exact ⟨rfl, rfl⟩
    · exact ⟨rfl, rfl⟩

/-- The scroll address after items (3) to (6) of a dot (R333 to R335). -/
theorem renderEvents_v (sl : Int) (d : Nat) (s : State) : (renderEvents sl d s).ppu.v =
    if d = 257 then copyHorizontal s.ppu.v s.ppu.t
    else if fetchDot d ∧ d % 8 = 0 then
      (if d = 256 ∧ 0 ≤ sl then incVertical (incHorizontal s.ppu.v) else incHorizontal s.ppu.v)
    else s.ppu.v := by
  by_cases h : d = 257
  · subst h
    simp only [renderEvents, if_true]
    rw [fetchSprites_v]
    simp [State.mapPpu, inFetchWindow]
  · rw [if_neg h]
    simp only [renderEvents, if_neg h, inFetchWindow_iff]
    have hbv := backgroundDot_v d s
    by_cases hw : fetchDot d
    · simp only [if_pos hw]
      by_cases h8 : d % 8 = 0
      · rw [if_pos h8] at hbv
        rw [if_pos (⟨hw, h8⟩ : fetchDot d ∧ d % 8 = 0)]
        by_cases h256 : d = 256
        · subst h256
          by_cases h0 : 0 ≤ sl
          · simp only [h0, and_self, if_true, State.mapPpu]
            rw [Ppu.evaluateSprites, (scanSprites_v _ _ _).1]; rw [hbv]
          · simp only [h0, and_false, if_false, if_true, State.mapPpu]
            rw [Ppu.evaluateSprites, (scanSprites_v _ _ _).1]; exact hbv
        · simp only [h256, false_and, if_false]; exact hbv
      · rw [if_neg h8] at hbv
        have hne : ¬ (fetchDot d ∧ d % 8 = 0) := fun hh => h8 hh.2
        have h256 : d ≠ 256 := by rintro rfl; exact h8 rfl
        simp only [h256, false_and, if_false, if_neg hne]; exact hbv
    · have h256 : d ≠ 256 := by rintro rfl; exact hw (.inl ⟨by decide, by decide⟩)
      have hne : ¬ (fetchDot d ∧ d % 8 = 0) := fun hh => hw hh.1
      simp only [if_neg hw, h256, false_and, if_false, if_neg hne]

/-- What a dot of the background pipeline can change. -/
theorem backgroundDot_frame (d : Nat) (s : State) : (backgroundDot d s).ppu =
    { s.ppu with
      ntByte := (backgroundDot d s).ppu.ntByte, atBits := (backgroundDot d s).ppu.atBits,
      patLo := (backgroundDot d s).ppu.patLo, patHi := (backgroundDot d s).ppu.patHi,
      bgLo := (backgroundDot d s).ppu.bgLo, bgHi := (backgroundDot d s).ppu.bgHi,
      atLo := (backgroundDot d s).ppu.atLo, atHi := (backgroundDot d s).ppu.atHi,
      v := (backgroundDot d s).ppu.v, a12Prev := (backgroundDot d s).ppu.a12Prev } := by
  simp only [backgroundDot, fetchPhase]
  split
  · rfl
  · rfl
  · rfl
  · simp only [fetchPatternLow, patFetch_eq]; rfl
  · simp only [fetchPatternHigh, patFetch_eq]; rfl
  · rfl

theorem loadLow_toNat (r : BitVec 16) (b : Byte) : (loadLow (r <<< 1) b).toNat =
    loaded r b.toNat := by
  have hb := b.isLt
  rw [loadLow, BitVec.toNat_or, BitVec.toNat_and]
  have h1 : (b.setWidth 16).toNat = b.toNat := by simp; omega
  have h2 : (r <<< 1).toNat = shifted r := by simp [shifted, Nat.shiftLeft_eq]; omega
  have h3 : shifted r < 65536 := by unfold shifted; omega
  rw [h1, h2]
  have h4 : shifted r &&& 0xFF00 = shifted r / 256 * 256 := by
    generalize shifted r = x at *
    apply Nat.eq_of_testBit_eq
    intro i
    rw [Nat.testBit_and]
    have e : x / 256 * 256 = (x >>> 8) <<< 8 := by rw [Nat.shiftRight_eq_div_pow, Nat.shiftLeft_eq]
    rw [e, Nat.testBit_shiftLeft, Nat.testBit_shiftRight]
    by_cases hi : 8 ≤ i
    · have : 8 + (i - 8) = i := by omega
      rw [this]
      by_cases h16 : i < 16
      · have : (0xFF00 : Nat).testBit i = true := by
          have : ∀ i < 16, 8 ≤ i → (0xFF00 : Nat).testBit i = true := by decide
          exact this i h16 hi
        simp [this, hi]
      · have hx : x.testBit i = false := Nat.testBit_lt_two_pow (Nat.lt_of_lt_of_le h3 (by
          show 2^16 ≤ 2^i
          exact Nat.pow_le_pow_right (by decide) (by omega)))
        simp [hx]
    · have : (0xFF00 : Nat).testBit i = false := by
        have : ∀ i < 8, (0xFF00 : Nat).testBit i = false := by decide
        exact this i (by omega)
      simp [this, hi]
  show (shifted r &&& 0xFF00) ||| b.toNat = _
  rw [h4, loaded]
  rw [show shifted r / 256 * 256 = 2^8 * (shifted r / 256) by omega]
  rw [← Nat.two_pow_add_eq_or_of_lt (by exact hb)]

/-- The nametable address in whole numbers (R364). -/
theorem nametableAddr_eq (v : BitVec 15) : nametableAddr v =
    BitVec.ofNat 14 (0x2000 + v.toNat % 4096) := by
  apply BitVec.eq_of_toNat_eq
  rw [nametableAddr]
  have e : (v &&& 0x0FFF).toNat = v.toNat % 4096 := by
    rw [BitVec.toNat_and]; show v.toNat &&& (2 ^ 12 - 1) = _; rw [Nat.and_two_pow_sub_one_eq_mod]
  rw [BitVec.toNat_setWidth, BitVec.toNat_or, e]
  have : (0x2000 : BitVec 15).toNat = 2^12 * 2 := rfl
  rw [this, ← Nat.two_pow_add_eq_or_of_lt (by omega)]
  simp

theorem attributeFields_or (b c d : Nat) (hb : b < 4) (hc : c < 8) (hd : d < 8) :
    (0x23C0 ||| (1024 * b) ||| (8 * c) ||| d) = 0x23C0 + 1024*b + 8*c + d := by
  have : ∀ b < 4, ∀ c < 8, ∀ d < 8, (0x23C0 ||| (1024 * b) ||| (8 * c) ||| d) =
      0x23C0 + 1024*b + 8*c + d := by decide +kernel
  exact this b hb c hc d hd

theorem and_field_nat (x i n : Nat) : x &&& ((2^n-1) * 2^i) = (x / 2^i % 2^n) * 2^i := by
  apply Nat.eq_of_testBit_eq
  intro k
  rw [Nat.testBit_and, Nat.testBit_mul_two_pow, Nat.testBit_mul_two_pow,
      Nat.testBit_two_pow_sub_one, Nat.testBit_mod_two_pow, Nat.testBit_div_two_pow]
  by_cases h : i ≤ k
  · have : k - i + i = k := by omega
    rw [this]; simp [h, Bool.and_comm]
  · simp [h]

/-- The attribute address (R363). -/
theorem attributeAddr_eq (v : BitVec 15) : attributeAddr v = attributeCell v := by
  have hv := v.isLt
  apply BitVec.eq_of_toNat_eq
  rw [attributeAddr, attributeCell, BitVec.toNat_setWidth, BitVec.toNat_or, BitVec.toNat_or,
      BitVec.toNat_or]
  have e1 : (v &&& 0x0C00#15).toNat = 1024 * (v.toNat / 1024 % 4) := by
    rw [BitVec.toNat_and]; show v.toNat &&& ((2^2-1) * 2^10) = _; rw [and_field_nat]; omega
  have e2 : ((v >>> 4) &&& 0x38#15).toNat = 8 * (coarseY v / 4) := by
    rw [BitVec.toNat_and]; show (v >>> 4).toNat &&& ((2^3-1) * 2^3) = _; rw [and_field_nat,
        BitVec.toNat_ushiftRight, Nat.shiftRight_eq_div_pow, coarseY]; omega
  have e3 : ((v >>> 2) &&& 0x07#15).toNat = coarseX v / 4 := by
    rw [BitVec.toNat_and]; show (v >>> 2).toNat &&& (2^3-1) =
        _; rw [Nat.and_two_pow_sub_one_eq_mod, BitVec.toNat_ushiftRight,
            Nat.shiftRight_eq_div_pow, coarseX]; omega
  rw [e1, e2, e3]
  have := attributeFields_or (v.toNat / 1024 % 4) (coarseY v / 4) (coarseX v / 4) (by omega)
      (by simp only [coarseY]; omega) (by simp only [coarseX]; omega)
  rw [show (0x23C0#15).toNat = 0x23C0 from rfl, this, BitVec.toNat_ofNat]

/-- The shift of the attribute pair (R363). -/
theorem attributeShift_eq (v : BitVec 15) : attributeShift v =
    2 * (coarseX v / 2 % 2) + 4 * (coarseY v / 2 % 2) := by
  have hv := v.isLt
  rw [attributeShift, BitVec.toNat_or]
  have e1 : ((v >>> 4) &&& 4).toNat = 4 * (coarseY v / 2 % 2) := by
    rw [BitVec.toNat_and]; show (v >>> 4).toNat &&& ((2^1-1) * 2^2) = _; rw [and_field_nat,
        BitVec.toNat_ushiftRight, Nat.shiftRight_eq_div_pow, coarseY]; omega
  have e2 : (v &&& 2).toNat = 2 * (coarseX v / 2 % 2) := by
    rw [BitVec.toNat_and]; show (v).toNat &&& ((2^1-1) * 2^1) = _; rw [and_field_nat,
        coarseX]; omega
  rw [e1, e2]
  have : ∀ a < 2, ∀ b < 2, (4 * a ||| 2 * b) = 2 * b + 4 * a := by decide
  exact this _ (by omega) _ (by omega)

/-- The background pattern address (R365). -/
theorem bgPatternAddr_eq (s : State) : s.ppu.bgPatternAddr = BitVec.ofNat 14 (patternCell s) := by
  have hv := s.ppu.v.isLt
  have hn := s.ppu.ntByte.isLt
  apply BitVec.eq_of_toNat_eq
  rw [Ppu.bgPatternAddr, patternCell, BitVec.toNat_or, BitVec.toNat_or]
  have e1 : (bit 14 s.ppu.ctrl[4] <<< 12).toNat = 2^12 * (s.ppu.ctrl.getLsbD 4).toNat := by
    show (bit 14 (s.ppu.ctrl.getLsbD 4) <<< 12).toNat = _
    cases s.ppu.ctrl.getLsbD 4 <;> rfl
  have e2 : (s.ppu.ntByte.setWidth 14 <<< 4).toNat = 16 * s.ppu.ntByte.toNat := by
    simp [Nat.shiftLeft_eq]; omega
  have e3 : ((s.ppu.v.extractLsb' 12 3).setWidth 14).toNat = fineY s.ppu.v := by
    simp [Nat.shiftRight_eq_div_pow, fineY]; omega
  have hf : fineY s.ppu.v < 8 := by simp only [fineY]; omega
  rw [e1, e2, e3, Nat.or_assoc]
  rw [show 16 * s.ppu.ntByte.toNat = 2^4 * s.ppu.ntByte.toNat from rfl,
      ← Nat.two_pow_add_eq_or_of_lt (show fineY s.ppu.v < 2^4 by omega)]
  rw [← Nat.two_pow_add_eq_or_of_lt (by omega)]
  simp
  have : (s.ppu.ctrl.getLsbD 4).toNat ≤ 1 := Bool.toNat_le _
  simp at this
  omega

theorem ppuRead_base (s : State) (t : State) (h : t =
    { s with ppu := { t.ppu with palette := s.ppu.palette }, events := t.events }) (a : PAddr) :
        ppuRead t a = ppuRead s a := by
  rw [h]; rfl

/-- The match test of R370, as a claim says it. -/
theorem spriteMatches_eq (s : State) (p : Ppu) (h1 : p.oam = s.ppu.oam) (h2 : p.ctrl =
    s.ppu.ctrl) (n : Nat) : p.spriteMatches s.ppu.scanline n = coversNext s n := by
  simp only [Ppu.spriteMatches, coversNext, h1, Ppu.spriteHeight, spriteRows, h2]
  rw [Bool.eq_iff_iff]
  simp only [Bool.and_eq_true, decide_eq_true_eq, ← BitVec.getLsbD_eq_getElem]
  constructor <;> intro h <;> refine ⟨by omega, ?_⟩ <;> have :=
      h.2 <;> split at this <;> split <;> simp_all <;> omega

theorem scanSprite_keeps (sl : Int) (p : Ppu) (n : Nat) : (scanSprite sl p n).oam = p.oam ∧
    (scanSprite sl p n).ctrl = p.ctrl := by
  unfold scanSprite; split
  · split <;> exact ⟨rfl, rfl⟩
  · exact ⟨rfl, rfl⟩

/-- The unit that slot `i` loads (R375, R378). -/
def unitFetched (sl : Int) (s : State) (i : Nat) : SpriteUnit :=
  let e := s.ppu.sec[i]?.getD ⟨0, 0, 0, 0⟩
  let a := spriteRowAddr s.ppu.ctrl e.tile (spriteRow sl s.ppu.spriteHeight e)
  if i < s.ppu.secCount then ⟨e.x, e.attr, if e.attr[6] then rev8 (ppuRead s a) else ppuRead s a,
      if e.attr[6] then rev8 (ppuRead s (a+8)) else ppuRead s (a+8)⟩ else ⟨0,0,0,0⟩

/-- What fetching one sprite slot does (R375). -/
theorem fetchSprite_eq (sl : Int) (s : State) (i : Nat) : (fetchSprite sl s i).ppu.su =
    s.ppu.su.setIfInBounds i (unitFetched sl s i) ∧
   (fetchSprite sl s i).ppu.sec = s.ppu.sec ∧ (fetchSprite sl s i).ppu.secCount = s.ppu.secCount ∧
       (fetchSprite sl s i).ppu.ctrl = s.ppu.ctrl ∧ ∀ a, ppuRead (fetchSprite sl s i) a =
           ppuRead s a := by
  have hp := fetchSprite_pipe sl s i
  have e2 : (fetchSprite sl s i).ppu.sec = s.ppu.sec ∧ (fetchSprite sl s i).ppu.secCount =
      s.ppu.secCount := by
    simp only [fetchSprite, patFetch_eq]; exact ⟨rfl, rfl⟩
  refine ⟨?_, e2.1, e2.2, by rw [hp], fun a => hp.ppuRead a⟩
  simp only [fetchSprite, unitFetched]
  by_cases h : i < s.ppu.secCount
  · simp only [h, decide_true, if_true]
    have h1 : ∀ a, (patFetch a s).1 = ppuRead s a := fun a => by rw [patFetch_eq]
    have h2 : ∀ a b, (patFetch b (patFetch a s).2).1 = ppuRead s b := fun a b => by
      rw [patFetch_eq]; exact (patFetch_pipe a s).ppuRead b
    simp only [h1, h2]
    simp only [patFetch_eq]; rfl
  · simp only [h, decide_false, if_false]
    simp only [patFetch_eq]; rfl

theorem rev8_bits (b : Byte) : ∀ j < 8, (rev8 b).getLsbD j = b.getLsbD (7 - j) := by
  revert b; decide +kernel

theorem spriteRowAddr_tall : ∀ t : Byte, ∀ r < 16,
    ((bit 14 t[0] <<< 12) ||| ((t &&& 0xFE).setWidth 14 <<< 4) ||| ((BitVec.ofNat 14 r &&& 8) <<< 1) ||| (BitVec.ofNat 14 r &&& 7)) = BitVec.ofNat 14 (4096*(t.toNat%2)+32*(t.toNat/2)+16*(r/8)+r%8) := by decide +kernel

theorem spriteRowAddr_low : ∀ b : Bool, ∀ t : Byte, ∀ r < 8,
    ((bit 14 b <<< 12) ||| (t.setWidth 14 <<< 4) ||| BitVec.ofNat 14 r) =
        BitVec.ofNat 14 (4096 * b.toNat + 16 * t.toNat + r) := by decide +kernel

/-- A sprite row's address (R376). -/
theorem spriteRowAddr_eq (s : State) (e : SpriteEntry) :
    spriteRowAddr s.ppu.ctrl e.tile (spriteRow s.ppu.scanline s.ppu.spriteHeight e) =
        BitVec.ofNat 14 (spriteCell s e) := by
  have hr : spriteRow s.ppu.scanline s.ppu.spriteHeight e = spriteLine s e := rfl
  rw [hr]
  have hlt : spriteLine s e < spriteRows s := by
    have hp : (0:Int) < spriteRows s := by unfold spriteRows; split <;> decide
    have h1 := Int.emod_nonneg (if e.attr.getLsbD 7 then (spriteRows s :
        Int) - 1 - (s.ppu.scanline - e.y.toNat)
      else s.ppu.scanline - e.y.toNat) (Int.ne_of_gt hp)
    have h2 := Int.emod_lt_of_pos (if e.attr.getLsbD 7 then (spriteRows s :
        Int) - 1 - (s.ppu.scanline - e.y.toNat)
      else s.ppu.scanline - e.y.toNat) hp
    unfold spriteLine
    omega
  unfold spriteCell
  generalize spriteLine s e = r at *
  unfold spriteRowAddr
  show (if s.ppu.ctrl.getLsbD 5 = true then _ else _) = _
  unfold spriteRows at hlt
  cases h : s.ppu.ctrl.getLsbD 5 with
  | true =>
    rw [h] at hlt
    simp only [if_true] at hlt ⊢
    exact spriteRowAddr_tall _ _ hlt
  | false =>
    rw [h] at hlt
    simp only [Bool.false_eq_true, if_false] at hlt ⊢
    exact spriteRowAddr_low _ _ _ hlt

theorem ofNat14_add8 (n : Nat) : BitVec.ofNat 14 n + 8 = BitVec.ofNat 14 (n + 8) := by
  apply BitVec.eq_of_toNat_eq; simp

theorem spriteRowAddr_high_eq (s : State) (e : SpriteEntry) :
    spriteRowAddr s.ppu.ctrl e.tile (spriteRow s.ppu.scanline s.ppu.spriteHeight e) + 8 =
        BitVec.ofNat 14 (spriteCell s e + 8) := by
  rw [spriteRowAddr_eq]; apply BitVec.eq_of_toNat_eq; simp

theorem spriteRow_lt (sl : Int) (h : Nat) (hp : 0 < h) (e : SpriteEntry) : spriteRow sl h e < h :=
    by
  unfold spriteRow
  have h1 := Int.emod_nonneg (if e.attr[7] = true then (h :
      Int) - 1 - (sl - e.y.toNat) else sl - e.y.toNat) (show (h:Int) ≠ 0 by omega)
  have h2 := Int.emod_lt_of_pos (if e.attr[7] = true then (h :
      Int) - 1 - (sl - e.y.toNat) else sl - e.y.toNat) (show (0:Int) < h by omega)
  simp only
  omega

theorem renderEvents_257 (sl : Int) (s : State) : renderEvents sl 257 s =
    fetchSprites sl (s.mapPpu fun p => { p with v := copyHorizontal p.v p.t }) := rfl

/-- The background pixel (R391). -/
theorem bgPixel_eq (s : State) (x : Nat) : s.ppu.bgPixel x = backgroundShown s x := by
  have hb : ∀ a b : Bool, (bit 2 a <<< 1 ||| bit 2 b).toNat = 2 * a.toNat + b.toNat := by decide
  simp only [Ppu.bgPixel, backgroundShown, hb]; rfl

theorem unitColor_eq (u : SpriteUnit) : (bit 2 u.hi[7] <<< 1 ||| bit 2 u.lo[7]).toNat =
    unitColor u := by
  have hb : ∀ a b : Bool, (bit 2 a <<< 1 ||| bit 2 b).toNat = 2 * a.toNat + b.toNat := by decide
  exact hb _ _

/-- The update of a sprite unit (R397). -/
theorem tick_ticked (u : SpriteUnit) : UnitTicked u u.tick := by
  unfold SpriteUnit.tick
  constructor
  · split <;> rfl
  · intro h; rw [if_neg h]
    refine ⟨?_, rfl, rfl⟩
    have : u.xcnt.toNat ≠ 0 := fun hh => h (BitVec.eq_of_toNat_eq hh)
    have := u.xcnt.isLt
    simp only [BitVec.toNat_sub]
    simp; omega
  · intro h; rw [if_pos h]
    refine ⟨h, ?_, ?_⟩ <;> simp [Nat.shiftLeft_eq] <;> omega

end Sys2Proof.Machine
end

