-- ==== Sys2Proof/Laws/Forms.lean ====
section
/-! SUPPORT. Which shared shape the meaning of each form is, and that its encoding is the form's. -/

namespace Sys2Proof.Machine

variable (b : Byte) (w : Addr) (s : State)

theorem ldaForms_exec : ∀ f ∈ ldaForms b w, f.Encoded ∧
    exec f.instr s = readInstr f.base f.operand (loadReg State.setA) s := by
  simp only [ldaForms, List.forall_mem_cons, List.not_mem_nil, false_implies, implies_true, and_true]
  refine ⟨?_, ?_, ?_, ?_, ?_, ?_, ?_, ?_⟩ <;> exact ⟨⟨rfl, rfl⟩, rfl⟩

theorem ldxForms_exec : ∀ f ∈ ldxForms b w, f.Encoded ∧
    exec f.instr s = readInstr f.base f.operand (loadReg State.setX) s := by
  simp only [ldxForms, List.forall_mem_cons, List.not_mem_nil, false_implies, implies_true, and_true]
  refine ⟨?_, ?_, ?_, ?_, ?_⟩ <;> exact ⟨⟨rfl, rfl⟩, rfl⟩

theorem ldyForms_exec : ∀ f ∈ ldyForms b w, f.Encoded ∧
    exec f.instr s = readInstr f.base f.operand (loadReg State.setY) s := by
  simp only [ldyForms, List.forall_mem_cons, List.not_mem_nil, false_implies, implies_true, and_true]
  refine ⟨?_, ?_, ?_, ?_, ?_⟩ <;> exact ⟨⟨rfl, rfl⟩, rfl⟩

theorem adcForms_exec : ∀ f ∈ adcForms b w, f.Encoded ∧
    exec f.instr s = readInstr f.base f.operand adcEffect s := by
  simp only [adcForms, List.forall_mem_cons, List.not_mem_nil, false_implies, implies_true, and_true]
  refine ⟨?_, ?_, ?_, ?_, ?_, ?_, ?_, ?_⟩ <;> exact ⟨⟨rfl, rfl⟩, rfl⟩

theorem sbcForms_exec : ∀ f ∈ sbcForms b w, f.Encoded ∧
    exec f.instr s = readInstr f.base f.operand sbcEffect s := by
  simp only [sbcForms, List.forall_mem_cons, List.not_mem_nil, false_implies, implies_true, and_true]
  refine ⟨?_, ?_, ?_, ?_, ?_, ?_, ?_, ?_⟩ <;> exact ⟨⟨rfl, rfl⟩, rfl⟩

theorem andForms_exec : ∀ f ∈ andForms b w, f.Encoded ∧
    exec f.instr s = readInstr f.base f.operand andEffect s := by
  simp only [andForms, List.forall_mem_cons, List.not_mem_nil, false_implies, implies_true, and_true]
  refine ⟨?_, ?_, ?_, ?_, ?_, ?_, ?_, ?_⟩ <;> exact ⟨⟨rfl, rfl⟩, rfl⟩

theorem oraForms_exec : ∀ f ∈ oraForms b w, f.Encoded ∧
    exec f.instr s = readInstr f.base f.operand oraEffect s := by
  simp only [oraForms, List.forall_mem_cons, List.not_mem_nil, false_implies, implies_true, and_true]
  refine ⟨?_, ?_, ?_, ?_, ?_, ?_, ?_, ?_⟩ <;> exact ⟨⟨rfl, rfl⟩, rfl⟩

theorem eorForms_exec : ∀ f ∈ eorForms b w, f.Encoded ∧
    exec f.instr s = readInstr f.base f.operand eorEffect s := by
  simp only [eorForms, List.forall_mem_cons, List.not_mem_nil, false_implies, implies_true, and_true]
  refine ⟨?_, ?_, ?_, ?_, ?_, ?_, ?_, ?_⟩ <;> exact ⟨⟨rfl, rfl⟩, rfl⟩

theorem bitForms_exec : ∀ f ∈ bitForms b w, f.Encoded ∧
    exec f.instr s = readInstr f.base f.operand bitEffect s := by
  simp only [bitForms, List.forall_mem_cons, List.not_mem_nil, false_implies, implies_true, and_true]
  refine ⟨?_, ?_⟩ <;> exact ⟨⟨rfl, rfl⟩, rfl⟩

theorem cmpForms_exec : ∀ f ∈ cmpForms b w, f.Encoded ∧
    exec f.instr s = readInstr f.base f.operand cmpEffect s := by
  simp only [cmpForms, List.forall_mem_cons, List.not_mem_nil, false_implies, implies_true, and_true]
  refine ⟨?_, ?_, ?_, ?_, ?_, ?_, ?_, ?_⟩ <;> exact ⟨⟨rfl, rfl⟩, rfl⟩

theorem cpxForms_exec : ∀ f ∈ cpxForms b w, f.Encoded ∧
    exec f.instr s = readInstr f.base f.operand cpxEffect s := by
  simp only [cpxForms, List.forall_mem_cons, List.not_mem_nil, false_implies, implies_true, and_true]
  refine ⟨?_, ?_, ?_⟩ <;> exact ⟨⟨rfl, rfl⟩, rfl⟩

theorem cpyForms_exec : ∀ f ∈ cpyForms b w, f.Encoded ∧
    exec f.instr s = readInstr f.base f.operand cpyEffect s := by
  simp only [cpyForms, List.forall_mem_cons, List.not_mem_nil, false_implies, implies_true, and_true]
  refine ⟨?_, ?_, ?_⟩ <;> exact ⟨⟨rfl, rfl⟩, rfl⟩

theorem staForms_exec : ∀ f ∈ staForms b w, f.Encoded ∧
    exec f.instr s = storeInstr f.base f.operand s.cpu.a s := by
  simp only [staForms, List.forall_mem_cons, List.not_mem_nil, false_implies, implies_true, and_true]
  refine ⟨?_, ?_, ?_, ?_, ?_, ?_, ?_⟩ <;> exact ⟨⟨rfl, rfl⟩, rfl⟩

theorem stxForms_exec : ∀ f ∈ stxForms b w, f.Encoded ∧
    exec f.instr s = storeInstr f.base f.operand s.cpu.x s := by
  simp only [stxForms, List.forall_mem_cons, List.not_mem_nil, false_implies, implies_true, and_true]
  refine ⟨?_, ?_, ?_⟩ <;> exact ⟨⟨rfl, rfl⟩, rfl⟩

theorem styForms_exec : ∀ f ∈ styForms b w, f.Encoded ∧
    exec f.instr s = storeInstr f.base f.operand s.cpu.y s := by
  simp only [styForms, List.forall_mem_cons, List.not_mem_nil, false_implies, implies_true, and_true]
  refine ⟨?_, ?_, ?_⟩ <;> exact ⟨⟨rfl, rfl⟩, rfl⟩

theorem aslForms_exec : ∀ f ∈ aslForms b w, f.Encoded ∧
    exec f.instr s = shiftMem f.base f.operand aslFn s := by
  simp only [aslForms, List.forall_mem_cons, List.not_mem_nil, false_implies, implies_true, and_true]
  refine ⟨?_, ?_, ?_, ?_⟩ <;> exact ⟨⟨rfl, rfl⟩, rfl⟩

theorem lsrForms_exec : ∀ f ∈ lsrForms b w, f.Encoded ∧
    exec f.instr s = shiftMem f.base f.operand lsrFn s := by
  simp only [lsrForms, List.forall_mem_cons, List.not_mem_nil, false_implies, implies_true, and_true]
  refine ⟨?_, ?_, ?_, ?_⟩ <;> exact ⟨⟨rfl, rfl⟩, rfl⟩

theorem rolForms_exec : ∀ f ∈ rolForms b w, f.Encoded ∧
    exec f.instr s = shiftMem f.base f.operand rolFn s := by
  simp only [rolForms, List.forall_mem_cons, List.not_mem_nil, false_implies, implies_true, and_true]
  refine ⟨?_, ?_, ?_, ?_⟩ <;> exact ⟨⟨rfl, rfl⟩, rfl⟩

theorem rorForms_exec : ∀ f ∈ rorForms b w, f.Encoded ∧
    exec f.instr s = shiftMem f.base f.operand rorFn s := by
  simp only [rorForms, List.forall_mem_cons, List.not_mem_nil, false_implies, implies_true, and_true]
  refine ⟨?_, ?_, ?_, ?_⟩ <;> exact ⟨⟨rfl, rfl⟩, rfl⟩

theorem incForms_exec : ∀ f ∈ incForms b w, f.Encoded ∧
    exec f.instr s = stepMem f.base f.operand (fun v => v + 1) s := by
  simp only [incForms, List.forall_mem_cons, List.not_mem_nil, false_implies, implies_true, and_true]
  refine ⟨?_, ?_, ?_, ?_⟩ <;> exact ⟨⟨rfl, rfl⟩, rfl⟩

theorem decForms_exec : ∀ f ∈ decForms b w, f.Encoded ∧
    exec f.instr s = stepMem f.base f.operand (fun v => v - 1) s := by
  simp only [decForms, List.forall_mem_cons, List.not_mem_nil, false_implies, implies_true, and_true]
  refine ⟨?_, ?_, ?_, ?_⟩ <;> exact ⟨⟨rfl, rfl⟩, rfl⟩

end Sys2Proof.Machine
end

