-- ==== Sys2Proof/Laws/Invariants.lean ====
section
/-! SUPPORT. What every memory operation keeps: the canonical form and size of each memory,
    and the Mapper registers the windows depend on. -/

namespace Sys2Proof.Machine

/-- Only the memories matter to `MemoriesOk`. -/
theorem MemoriesOk.congr {s : State} (h : MemoriesOk s) (t : State) (e : t.wram = s.wram ∧
    t.ntram = s.ntram ∧ t.ntramExt = s.ntramExt ∧ t.cartRam = s.cartRam ∧ t.patRam = s.patRam ∧
        t.ppu.oam = s.ppu.oam ∧ t.ppu.fb = s.ppu.fb) : MemoriesOk t := by
  obtain ⟨e1, e2, e3, e4, e5, e6, e7⟩ := e
  have e7' : ∀ y, t.ppu.row y = s.ppu.row y := by intro y; simp only [Ppu.row, e7]
  constructor
  · rw [e1]; exact h.wram
  · rw [e2]; exact h.ntram
  · rw [e3]; exact h.ntramExt
  · rw [e4]; exact h.cartRam
  · rw [e5]; exact h.patRam
  · rw [e6]; exact h.oam
  · intro y hy; rw [e7']; exact h.fb y hy

/-- A bus read keeps every memory canonical. -/
theorem ReadFrame.memories {s t : State} (h : ReadFrame s t) (hs : MemoriesOk s) : MemoriesOk t :=
    by
  refine MemoriesOk.congr hs t ⟨h.wram, h.ntram, h.ntramExt, h.cartRam, h.patRam, ?_,
      ?_⟩ <;> rw [h.ppu]

/-- A nametable cell lies inside its memory (R97). -/
theorem ntCell_lt (m : Mirror) (a : PAddr) : (ntCell m a).2 < 2048 := by
  have hq : a.toNat % 4096 / 1024 < 4 := by omega
  have hn : physicalNametable m (a.toNat % 4096 / 1024) < 4 := by
    unfold physicalNametable; split <;> omega
  simp only [ntCell]
  split <;> simp only [] <;> omega

/-- A Mapper register write keeps every memory canonical. -/
theorem writeRegister_memories (a : Addr) (d : Byte) (s : State) (hs : MemoriesOk s) :
    MemoriesOk (writeRegister a d s) := by
  rcases writeRegister_cases a d s with ⟨m, h⟩ | ⟨n, r, c, l,
      h⟩ <;> rw [h] <;> exact MemoriesOk.congr hs _ ⟨rfl, rfl, rfl, rfl, rfl, rfl, rfl⟩

/-- A write of picture-generator memory keeps every memory canonical (R96). -/
theorem ppuWrite_memories (a : PAddr) (d : Byte) (s : State) (hs : MemoriesOk s) :
    MemoriesOk (ppuWrite a d s) := by
  unfold ppuWrite
  split
  · next h =>
    split
    · exact { hs with patRam := ⟨Memory.write_wf hs.patRam.1 _ _, Memory.write_below hs.patRam.2 h _⟩ }
    · exact hs
  split
  · split
    · next i he =>
      have := ntCell_lt s.mapper.mirror a
      rw [he] at this
      exact { hs with ntram := ⟨Memory.write_wf hs.ntram.1 _ _, Memory.write_below hs.ntram.2 this _⟩ }
    · next i he =>
      have := ntCell_lt s.mapper.mirror a
      rw [he] at this
      exact { hs with ntramExt := ⟨Memory.write_wf hs.ntramExt.1 _ _, Memory.write_below hs.ntramExt.2 this _⟩ }
  · exact MemoriesOk.congr hs _ ⟨rfl, rfl, rfl, rfl, rfl, rfl, rfl⟩

/-- A bus write keeps every memory canonical (R73). -/
theorem busWrite_memories (a : Addr) (d : Byte) (s : State) (hs : MemoriesOk s) :
    MemoriesOk (busWrite a d s) := by
  unfold busWrite
  split
  · exact { hs with wram := ⟨Memory.write_wf hs.wram.1 _ _, Memory.write_below hs.wram.2 (by omega) _⟩ }
  split
  · unfold ppuRegWrite
    split
    · exact MemoriesOk.congr hs _ ⟨rfl, rfl, rfl, rfl, rfl, rfl, rfl⟩
    · exact MemoriesOk.congr hs _ ⟨rfl, rfl, rfl, rfl, rfl, rfl, rfl⟩
    · exact MemoriesOk.congr hs _ ⟨rfl, rfl, rfl, rfl, rfl, rfl, rfl⟩
    · exact { hs with oam := ⟨Memory.write_wf hs.oam.1 _ _, Memory.write_below hs.oam.2 s.ppu.oamAddr.isLt _⟩ }
    · refine MemoriesOk.congr hs _ ⟨rfl, rfl, rfl, rfl, rfl, ?_, ?_⟩ <;> simp only [State.mapPpu,
        Ppu.writeScroll] <;> split <;> rfl
    · refine MemoriesOk.congr hs _ ⟨rfl, rfl, rfl, rfl, rfl, ?_, ?_⟩ <;> simp only [State.mapPpu,
        Ppu.writeAddress] <;> split <;> rfl
    · exact MemoriesOk.congr (ppuWrite_memories _ d s hs) _ ⟨rfl, rfl, rfl, rfl, rfl, rfl, rfl⟩
    · exact hs
  split
  · unfold objectDma
    generalize List.range 256 = l
    induction l generalizing s with
    | nil => exact hs
    | cons i l ih =>
      refine ih _ ?_
      have hr := ReadFrame.memories (busRead_frame (word16 (BitVec.ofNat 8 i) d) s) hs
      simp only [dmaByte]
      exact { hr with oam := ⟨Memory.write_wf hr.oam.1 _ _, Memory.write_below hr.oam.2 (Nat.mod_lt _ (by decide)) _⟩ }
  split
  · exact MemoriesOk.congr hs _ ⟨rfl, rfl, rfl, rfl, rfl, rfl, rfl⟩
  split
  · exact hs
  unfold cartWrite
  split
  · exact writeRegister_memories a d s hs
  split
  · exact { hs with cartRam := ⟨Memory.write_wf hs.cartRam.1 _ _, Memory.write_below hs.cartRam.2 (by omega) _⟩ }
  · exact hs

/-- A dot keeps every memory canonical (R320). -/
theorem ppuStep_memories (s : State) (hs : MemoriesOk s) : MemoriesOk (ppuStep s) := by
  have ht := ppuStep_tick s
  have hfb : ∀ y < 240, ((ppuStep s).ppu.row y).Wf ∧ ((ppuStep s).ppu.row y).Below 256 := by
    intro y hy
    obtain ⟨a, b, f1, f2, f3, ha, hb⟩ := dotEvents_parts s
    have : (ppuStep s).ppu.row y = (dotEvents s).ppu.row y := by
      rw [ppuStep_eq]; simp only [State.mapPpu]; rw [advanceCounters_frame]; rfl
    rw [this]
    have e3 : (dotEvents s).ppu.fb = b.ppu.fb := by rw [f3]
    have e1 : a.ppu.fb = s.ppu.fb := by rw [f1]
    have hrow : (a.ppu.row y).Wf ∧ (a.ppu.row y).Below 256 := by
      have := hs.fb y hy
      simp only [Ppu.row, e1]; exact this
    have hrow' : ∀ z, (a.ppu.row z).Wf ∧ (a.ppu.row z).Below 256 := by
      intro z
      by_cases hz : z < 240
      · have := hs.fb z hz
        simp only [Ppu.row, e1]; exact this
      · have : a.ppu.row z = [] := by simp [Ppu.row,
          Vector.getElem?_eq_none (show 240 ≤ z by omega)]
        rw [this]; exact ⟨Memory.nil_wf, Memory.nil_below _⟩
    simp only [Ppu.row, e3]
    rw [hb]
    unfold pixelEvent
    split
    · next hc =>
      have hset : ∀ c : BitVec 6, ∀ p : Ppu, p.fb = a.ppu.fb → (∀ p', p' =
          (p.setPixel s.ppu.scanline.toNat (s.ppu.dot - 1) c).fb → Memory.Wf (p'[y]?.getD []) ∧
              Memory.Below (p'[y]?.getD []) 256) := by
        rintro c p hp p' rfl
        simp only [Ppu.setPixel]
        rw [Vector.getElem?_setIfInBounds]
        have hz := hrow' s.ppu.scanline.toNat
        split
        · split
          · have : p.row s.ppu.scanline.toNat = a.ppu.row s.ppu.scanline.toNat :=
              by simp only [Ppu.row, hp]
            rw [this]
            exact ⟨Memory.write_wf hz.1 _ _, Memory.write_below hz.2 (by omega) _⟩
          · exact ⟨Memory.nil_wf, Memory.nil_below _⟩
        · rw [hp]; exact hrow
      simp only [State.mapPpu, Ppu.composite]
      split
      · exact hset _ a.ppu rfl _ rfl
      · exact hset _ a.ppu rfl _ rfl
    · exact hrow
  unfold TickFrame at ht
  constructor
  · rw [ht]; exact hs.wram
  · rw [ht]; exact hs.ntram
  · rw [ht]; exact hs.ntramExt
  · rw [ht]; exact hs.cartRam
  · rw [ht]; exact hs.patRam
  · rw [ht]; exact hs.oam
  · exact hfb

/-- A Mapper register write keeps every region of the windows inside the image (R457). -/
theorem writeRegister_banksOk (a : Addr) (d : Byte) (s : State) (h : BanksOk s) :
    BanksOk (writeRegister a d s) := by
  have hcb : ∀ (m0 m1 : Mapper) (u : State), failingBanks u.cfg m0 = [] →
      BanksOk (commitBanks a d m0 m1 u) := by
    intro m0 m1 u h0
    rcases commitBanks_cases a d m0 m1 u with ⟨h1, h2⟩ | ⟨h1, h2⟩
    · rw [h2]; exact h1
    · rw [h2]; exact h0
  unfold writeRegister
  cases hv : s.cfg.variant with
  | fixed => exact h
  | serial =>
    have hser : ∀ (r : BitVec 5) (k : Nat) (l : Option Nat),
        failingBanks s.cfg { s.mapper with serial := { s.mapper.serial with sr := r, srCount := k, lastWrite := l } } = [] := by
      intro r k l
      have :
          failingBanks s.cfg { s.mapper with serial := { s.mapper.serial with sr := r, srCount := k, lastWrite := l } } = failingBanks s.cfg s.mapper := rfl
      rw [this]; exact h
    simp only [serialWrite]
    split
    · exact hser _ _ _
    split
    · exact hcb _ _ _ (hser _ _ _)
    · simp only [serialShift]
      split
      · exact hcb _ _ _ (hser _ _ _)
      · exact hser _ _ _
  | scanline =>
    have hscan : ∀ (m : Mapper), m.scan.bankSelect = s.mapper.scan.bankSelect → m.scan.bankReg =
        s.mapper.scan.bankReg → failingBanks s.cfg m = [] := by
      intro m e1 e2
      have : failingBanks s.cfg m = failingBanks s.cfg s.mapper := by
        have c1 : ∀ k, scanPrgBank m.scan k = scanPrgBank s.mapper.scan k :=
            by intro k; simp only [scanPrgBank, e1, e2]
        have c2 : ∀ k, scanChrBank m.scan k = scanChrBank s.mapper.scan k :=
            by intro k; simp only [scanChrBank, e2]
        simp only [failingBanks, checkedRegions, hv, c1, c2]
      rw [this]; exact h
    simp only [scanWrite]
    split
    · exact hcb _ _ _ h
    · exact hcb _ _ _ h
    · refine hscan _ ?_ ?_ <;> simp only [scanMirrorWrite] <;> split <;> rfl
    · exact hscan _ rfl rfl
    · exact hscan _ rfl rfl
    · exact hscan _ rfl rfl
    · exact hscan _ rfl rfl
    · exact hscan _ rfl rfl

/-- A Mapper register write keeps `MapperOk`. -/
theorem writeRegister_mapperOk (a : Addr) (d : Byte) (s : State) (h : MapperOk s) :
    MapperOk (writeRegister a d s) := by
  unfold writeRegister
  cases hv : s.cfg.variant with
  | fixed => exact h
  | serial =>
    have hcb : ∀ (m0 m1 : Mapper) (u : State), u.cfg = s.cfg → (m0.irqPending =
        s.mapper.irqPending) → m1.irqPending = s.mapper.irqPending →
        (s.cfg.fourScreen = true → m0.mirror = .fourScreen ∧ m1.mirror = .fourScreen) →
            m0.serial.srCount ≤ 4 → m1.serial.srCount ≤ 4 → MapperOk (commitBanks a d m0 m1 u) := by
      intro m0 m1 u hu h1 h2 h3 h4 h5
      rcases commitBanks_cases a d m0 m1 u with ⟨-, e⟩ | ⟨-, e⟩ <;> rw [e]
      · exact ⟨fun hne => by show m1.irqPending = false; rw [h2]; exact h.1 (by rw [hv]; simp),
          fun hf => (h3 (hu ▸ hf)).2, h5⟩
      · exact ⟨fun hne => by show m0.irqPending = false; rw [h1]; exact h.1 (by rw [hv]; simp),
          fun hf => (h3 (hu ▸ hf)).1, h4⟩
    simp only [serialWrite]
    split
    · exact ⟨h.1, h.2.1, h.2.2⟩
    split
    · exact hcb _ _ _ rfl rfl rfl (fun hf => ⟨h.2.1 hf, h.2.1 hf⟩) h.2.2 (by simp)
    · simp only [serialShift]
      split
      · refine hcb _ _ _ rfl rfl ?_ (fun hf => ⟨h.2.1 hf, ?_⟩) (by simp) ?_
        · simp only [serialCommitted]; split <;> rfl
        · have := h.2.1 hf
          simp only [serialCommitted]; split
          · have hf' :
              (State.setMapper { s.mapper with serial := { s.mapper.serial with lastWrite := some s.stepCount } } s).cfg.fourScreen = true := hf
            simp only [serialMirror, hf', if_true]
          · exact this
          · exact this
          · exact this
        · simp only [serialCommitted]; split <;> simp
      · next hne =>
        refine ⟨h.1, h.2.1, ?_⟩
        have := h.2.2
        simp only [State.setMapper] at hne ⊢
        omega
  | scanline =>
    have hcb : ∀ (m0 m1 : Mapper) (u : State), u.cfg = s.cfg →
        (s.cfg.fourScreen = true → m0.mirror = .fourScreen ∧ m1.mirror = .fourScreen) →
            m0.serial.srCount ≤ 4 → m1.serial.srCount ≤ 4 → MapperOk (commitBanks a d m0 m1 u) := by
      intro m0 m1 u hu h3 h4 h5
      rcases commitBanks_cases a d m0 m1 u with ⟨-, e⟩ | ⟨-, e⟩ <;> rw [e]
      · exact ⟨fun hne => absurd hv (hu ▸ hne), fun hf => (h3 (hu ▸ hf)).2, h5⟩
      · exact ⟨fun hne => absurd hv (hu ▸ hne), fun hf => (h3 (hu ▸ hf)).1, h4⟩
    simp only [scanWrite]
    split
    · exact hcb _ _ _ rfl (fun hf => ⟨h.2.1 hf, h.2.1 hf⟩) h.2.2 h.2.2
    · exact hcb _ _ _ rfl (fun hf => ⟨h.2.1 hf, h.2.1 hf⟩) h.2.2 h.2.2
    · refine ⟨fun hne => absurd hv hne, ?_, ?_⟩
      · intro hf
        have hf' : s.cfg.fourScreen = true := hf
        simp only [State.setMapper, scanMirrorWrite, hf', if_true]; exact h.2.1 hf
      · simp only [State.setMapper, scanMirrorWrite]; split <;> exact h.2.2
    all_goals exact ⟨fun hne => absurd hv hne, h.2.1, h.2.2⟩

/-- A property of the configuration and the Mapper that register writes keep is kept by every bus write. -/
theorem busWrite_keepsMapper {P : State → Prop} (hP : ∀ s t : State, t.cfg = s.cfg → t.mapper =
    s.mapper → P s → P t) (hW : ∀ a d s, P s → P (writeRegister a d s)) (a : Addr) (d : Byte) (s :
        State) (h : P s) : P (busWrite a d s) := by
  by_cases hw : a.toNat < 0x8000
  · exact hP s _ (busWrite_cfg ..) (busWrite_mapper_low hw d s) h
  · rw [busWrite, if_neg (by omega), if_neg (by omega), if_neg (by omega), if_neg (by omega),
      if_neg (by omega), cartWrite, if_pos (by omega)]
    exact hW a d s h

/-- A property of the configuration and the Mapper that register writes and dots keep is kept by every step. -/
theorem step_keepsMapper {P : State → Prop} (hP : ∀ s t : State, t.cfg = s.cfg → t.mapper =
    s.mapper → P s → P t) (hW : ∀ a d s, P s → P (writeRegister a d s)) (hD : ∀ s, P s →
        P (ppuStep s)) {s t : State} (h : step s = .next t) (hs : P s) : P t := by
  refine step_keeps h hs (fun u v huv hu => cpuStep_keeps huv hu ?_ ?_ ?_ ?_) hD
  · intro u hu; exact hP u _ rfl rfl hu
  · intro u v ha hu
    refine ha.keeps hu ?_ ?_ ?_
    · intro a w hw; exact hP w _ (busRead_frame a w).cfg (busRead_frame a w).mapper hw
    · intro a d w hw; exact busWrite_keepsMapper hP hW a d w hw
    · intro w c hw hc; exact hP w _ rfl rfl hw
  · intro u hu; exact hP u _ rfl rfl hu
  · intro u a op hu; exact hP u _ rfl rfl hu

/-- In the Fixed and Serial variants a dot leaves the Mapper alone (R455). -/
theorem ppuStep_mapper (s : State) (hv : s.cfg.variant ≠ .scanline) : (ppuStep s).mapper =
    s.mapper := by
  have hadv : ∀ m, advanceCounter s.cfg m = m := by
    intro m; unfold advanceCounter; cases h : s.cfg.variant <;> first | rfl | exact absurd h hv
  have hpf : ∀ (u : State) a, u.cfg = s.cfg → (patFetch a u).2.mapper = u.mapper := by
    intro u a hu; rw [patFetch_eq]; simp only [hu, hadv]; split <;> rfl
  have hcf : ∀ (u : State) a, (patFetch a u).2.cfg = u.cfg := by intro u a; rw [patFetch_eq]
  have hfp : ∀ d (u : State), u.cfg = s.cfg → (backgroundDot d u).mapper = u.mapper := by
    intro d u hu
    simp only [backgroundDot, fetchPhase]
    split
    · rfl
    · rfl
    · rfl
    · exact hpf _ _ hu
    · exact hpf _ _ hu
    · rfl
  have hfs : ∀ sl (l : List Nat) (x : State), x.cfg = s.cfg →
      (l.foldl (fetchSprite sl) x).mapper = x.mapper := by
    intro sl l
    induction l with
    | nil => intro x _; rfl
    | cons i l ih =>
      intro x hx
      have e : (fetchSprite sl x i).mapper = x.mapper ∧ (fetchSprite sl x i).cfg = x.cfg := by
        simp only [fetchSprite]
        constructor
        · refine Eq.trans (hpf _ _ ?_) (hpf _ _ hx)
          rw [hcf]; exact hx
        · exact Eq.trans (hcf _ _) (hcf _ _)
      rw [List.foldl_cons, ih _ (e.2.trans hx), e.1]
  have hr : ∀ sl d (x : State), x.cfg = s.cfg → (renderEvents sl d x).mapper = x.mapper := by
    intro sl d x hx
    simp only [renderEvents]
    have h3 : (if inFetchWindow d = true then backgroundDot d x else x).mapper = x.mapper ∧
        (if inFetchWindow d = true then backgroundDot d x else x).cfg = s.cfg := by
      split
      · exact ⟨hfp _ _ hx, by rw [backgroundDot_pipe]; exact hx⟩
      · exact ⟨rfl, hx⟩
    generalize (if inFetchWindow d = true then backgroundDot d x else x) = x3 at *
    rw [← h3.1]
    have h4 : (if d = 256 ∧
        0 ≤ sl then x3.mapPpu fun p => { p with v := incVertical p.v } else x3).mapper =
            x3.mapper ∧ (if d = 256 ∧
                0 ≤ sl then x3.mapPpu fun p => { p with v := incVertical p.v } else x3).cfg =
                    s.cfg := by
      split <;> exact ⟨rfl, h3.2⟩
    generalize (if d = 256 ∧
        0 ≤ sl then x3.mapPpu fun p => { p with v := incVertical p.v } else x3) = x4 at *
    rw [← h4.1]
    have h5 : (if d = 256 then x4.mapPpu (Ppu.evaluateSprites sl) else x4).mapper = x4.mapper ∧
        (if d = 256 then x4.mapPpu (Ppu.evaluateSprites sl) else x4).cfg = s.cfg := by
      split <;> exact ⟨rfl, h4.2⟩
    generalize (if d = 256 then x4.mapPpu (Ppu.evaluateSprites sl) else x4) = x5 at *
    rw [← h5.1]
    split
    · rw [fetchSprites, hfs]
      · rfl
      · exact h5.2
    · rfl
  have e : (ppuStep s).mapper = (dotEvents s).mapper := rfl
  rw [e]
  have hfr :
      (pixelEvent s.ppu.scanline s.ppu.dot (flagEvents s.ppu.scanline s.ppu.dot s)).mapper =
          s.mapper ∧
              (pixelEvent s.ppu.scanline s.ppu.dot (flagEvents s.ppu.scanline s.ppu.dot s)).cfg =
                  s.cfg := by
    constructor <;> rw [pixelEvent_frame] <;> simp only [] <;> rw [flagEvents_frame]
  simp only [dotEvents]
  generalize pixelEvent s.ppu.scanline s.ppu.dot (flagEvents s.ppu.scanline s.ppu.dot s) = w at *
  have hvc : ∀ sl d (x : State), (verticalCopyEvent sl d x).mapper = x.mapper := by
    intro sl d x; unfold verticalCopyEvent; split <;> rfl
  split
  · rw [hvc]; split
    · rw [hr _ _ _ hfr.2]; exact hfr.1
    · exact hfr.1
  · split
    · rw [hr _ _ _ hfr.2]; exact hfr.1
    · exact hfr.1

/-- Every memory of the reset state has the canonical form and lies inside its size. -/
theorem reset_memories :
    (State.reset.wram.Wf ∧ State.reset.wram.Below 2048) ∧
    (State.reset.ntram.Wf ∧ State.reset.ntram.Below 2048) ∧
    (State.reset.ntramExt.Wf ∧ State.reset.ntramExt.Below 2048) ∧
    (State.reset.cartRam.Wf ∧ State.reset.cartRam.Below 8192) ∧
    (State.reset.patRam.Wf ∧ State.reset.patRam.Below 8192) ∧
    (State.reset.ppu.oam.Wf ∧ State.reset.ppu.oam.Below 256) ∧
    (State.reset.cfg.prg.Wf ∧ State.reset.cfg.chr.Wf) := by
  have h : ∀ n, Memory.Wf [] ∧ Memory.Below [] n := fun n => ⟨Memory.nil_wf, Memory.nil_below n⟩
  exact ⟨h _, h _, h _, h _, h _, h _, (h 0).1, (h 0).1⟩

end Sys2Proof.Machine
end

