-- ==== Sys2Proof/Laws/PerInstr.lean ====
section
/-! SUPPORT. Per-instruction facts of the syntax: the encoding of every instruction starts with the opcode byte of its row and has the row's length (30_encoding.md R120, R121, R130). -/

namespace Sys2Proof.Laws.EncodedRow

open Sys2Proof

set_option maxRecDepth 4000

/-- The encoding of `i` starts with an opcode byte of the table, and its length is that row's. -/
def Statement (i : Instr) : Prop :=
  ∃ op r, (encode i).head? = some op ∧ decodeOpcode op = some r ∧ (encode i).length = r.length

theorem ldaImm (imm : Byte) : Statement (.ldaImm imm) := ⟨0xA9, _, rfl, rfl, rfl⟩
theorem ldaZp (z : Byte) : Statement (.ldaZp z) := ⟨0xA5, _, rfl, rfl, rfl⟩
theorem ldaZpx (z : Byte) : Statement (.ldaZpx z) := ⟨0xB5, _, rfl, rfl, rfl⟩
theorem ldaAbs (w : Addr) : Statement (.ldaAbs w) := ⟨0xAD, _, rfl, rfl, rfl⟩
theorem ldaAbx (w : Addr) : Statement (.ldaAbx w) := ⟨0xBD, _, rfl, rfl, rfl⟩
theorem ldaAby (w : Addr) : Statement (.ldaAby w) := ⟨0xB9, _, rfl, rfl, rfl⟩
theorem ldaIzx (z : Byte) : Statement (.ldaIzx z) := ⟨0xA1, _, rfl, rfl, rfl⟩
theorem ldaIzy (z : Byte) : Statement (.ldaIzy z) := ⟨0xB1, _, rfl, rfl, rfl⟩
theorem ldxImm (imm : Byte) : Statement (.ldxImm imm) := ⟨0xA2, _, rfl, rfl, rfl⟩
theorem ldxZp (z : Byte) : Statement (.ldxZp z) := ⟨0xA6, _, rfl, rfl, rfl⟩
theorem ldxZpy (z : Byte) : Statement (.ldxZpy z) := ⟨0xB6, _, rfl, rfl, rfl⟩
theorem ldxAbs (w : Addr) : Statement (.ldxAbs w) := ⟨0xAE, _, rfl, rfl, rfl⟩
theorem ldxAby (w : Addr) : Statement (.ldxAby w) := ⟨0xBE, _, rfl, rfl, rfl⟩
theorem ldyImm (imm : Byte) : Statement (.ldyImm imm) := ⟨0xA0, _, rfl, rfl, rfl⟩
theorem ldyZp (z : Byte) : Statement (.ldyZp z) := ⟨0xA4, _, rfl, rfl, rfl⟩
theorem ldyZpx (z : Byte) : Statement (.ldyZpx z) := ⟨0xB4, _, rfl, rfl, rfl⟩
theorem ldyAbs (w : Addr) : Statement (.ldyAbs w) := ⟨0xAC, _, rfl, rfl, rfl⟩
theorem ldyAbx (w : Addr) : Statement (.ldyAbx w) := ⟨0xBC, _, rfl, rfl, rfl⟩
theorem staZp (z : Byte) : Statement (.staZp z) := ⟨0x85, _, rfl, rfl, rfl⟩
theorem staZpx (z : Byte) : Statement (.staZpx z) := ⟨0x95, _, rfl, rfl, rfl⟩
theorem staAbs (w : Addr) : Statement (.staAbs w) := ⟨0x8D, _, rfl, rfl, rfl⟩
theorem staAbx (w : Addr) : Statement (.staAbx w) := ⟨0x9D, _, rfl, rfl, rfl⟩
theorem staAby (w : Addr) : Statement (.staAby w) := ⟨0x99, _, rfl, rfl, rfl⟩
theorem staIzx (z : Byte) : Statement (.staIzx z) := ⟨0x81, _, rfl, rfl, rfl⟩
theorem staIzy (z : Byte) : Statement (.staIzy z) := ⟨0x91, _, rfl, rfl, rfl⟩
theorem stxZp (z : Byte) : Statement (.stxZp z) := ⟨0x86, _, rfl, rfl, rfl⟩
theorem stxZpy (z : Byte) : Statement (.stxZpy z) := ⟨0x96, _, rfl, rfl, rfl⟩
theorem stxAbs (w : Addr) : Statement (.stxAbs w) := ⟨0x8E, _, rfl, rfl, rfl⟩
theorem styZp (z : Byte) : Statement (.styZp z) := ⟨0x84, _, rfl, rfl, rfl⟩
theorem styZpx (z : Byte) : Statement (.styZpx z) := ⟨0x94, _, rfl, rfl, rfl⟩
theorem styAbs (w : Addr) : Statement (.styAbs w) := ⟨0x8C, _, rfl, rfl, rfl⟩
theorem tax : Statement (.tax) := ⟨0xAA, _, rfl, rfl, rfl⟩
theorem tay : Statement (.tay) := ⟨0xA8, _, rfl, rfl, rfl⟩
theorem txa : Statement (.txa) := ⟨0x8A, _, rfl, rfl, rfl⟩
theorem tya : Statement (.tya) := ⟨0x98, _, rfl, rfl, rfl⟩
theorem tsx : Statement (.tsx) := ⟨0xBA, _, rfl, rfl, rfl⟩
theorem txs : Statement (.txs) := ⟨0x9A, _, rfl, rfl, rfl⟩
theorem adcImm (imm : Byte) : Statement (.adcImm imm) := ⟨0x69, _, rfl, rfl, rfl⟩
theorem adcZp (z : Byte) : Statement (.adcZp z) := ⟨0x65, _, rfl, rfl, rfl⟩
theorem adcZpx (z : Byte) : Statement (.adcZpx z) := ⟨0x75, _, rfl, rfl, rfl⟩
theorem adcAbs (w : Addr) : Statement (.adcAbs w) := ⟨0x6D, _, rfl, rfl, rfl⟩
theorem adcAbx (w : Addr) : Statement (.adcAbx w) := ⟨0x7D, _, rfl, rfl, rfl⟩
theorem adcAby (w : Addr) : Statement (.adcAby w) := ⟨0x79, _, rfl, rfl, rfl⟩
theorem adcIzx (z : Byte) : Statement (.adcIzx z) := ⟨0x61, _, rfl, rfl, rfl⟩
theorem adcIzy (z : Byte) : Statement (.adcIzy z) := ⟨0x71, _, rfl, rfl, rfl⟩
theorem sbcImm (imm : Byte) : Statement (.sbcImm imm) := ⟨0xE9, _, rfl, rfl, rfl⟩
theorem sbcZp (z : Byte) : Statement (.sbcZp z) := ⟨0xE5, _, rfl, rfl, rfl⟩
theorem sbcZpx (z : Byte) : Statement (.sbcZpx z) := ⟨0xF5, _, rfl, rfl, rfl⟩
theorem sbcAbs (w : Addr) : Statement (.sbcAbs w) := ⟨0xED, _, rfl, rfl, rfl⟩
theorem sbcAbx (w : Addr) : Statement (.sbcAbx w) := ⟨0xFD, _, rfl, rfl, rfl⟩
theorem sbcAby (w : Addr) : Statement (.sbcAby w) := ⟨0xF9, _, rfl, rfl, rfl⟩
theorem sbcIzx (z : Byte) : Statement (.sbcIzx z) := ⟨0xE1, _, rfl, rfl, rfl⟩
theorem sbcIzy (z : Byte) : Statement (.sbcIzy z) := ⟨0xF1, _, rfl, rfl, rfl⟩
theorem andImm (imm : Byte) : Statement (.andImm imm) := ⟨0x29, _, rfl, rfl, rfl⟩
theorem andZp (z : Byte) : Statement (.andZp z) := ⟨0x25, _, rfl, rfl, rfl⟩
theorem andZpx (z : Byte) : Statement (.andZpx z) := ⟨0x35, _, rfl, rfl, rfl⟩
theorem andAbs (w : Addr) : Statement (.andAbs w) := ⟨0x2D, _, rfl, rfl, rfl⟩
theorem andAbx (w : Addr) : Statement (.andAbx w) := ⟨0x3D, _, rfl, rfl, rfl⟩
theorem andAby (w : Addr) : Statement (.andAby w) := ⟨0x39, _, rfl, rfl, rfl⟩
theorem andIzx (z : Byte) : Statement (.andIzx z) := ⟨0x21, _, rfl, rfl, rfl⟩
theorem andIzy (z : Byte) : Statement (.andIzy z) := ⟨0x31, _, rfl, rfl, rfl⟩
theorem oraImm (imm : Byte) : Statement (.oraImm imm) := ⟨0x09, _, rfl, rfl, rfl⟩
theorem oraZp (z : Byte) : Statement (.oraZp z) := ⟨0x05, _, rfl, rfl, rfl⟩
theorem oraZpx (z : Byte) : Statement (.oraZpx z) := ⟨0x15, _, rfl, rfl, rfl⟩
theorem oraAbs (w : Addr) : Statement (.oraAbs w) := ⟨0x0D, _, rfl, rfl, rfl⟩
theorem oraAbx (w : Addr) : Statement (.oraAbx w) := ⟨0x1D, _, rfl, rfl, rfl⟩
theorem oraAby (w : Addr) : Statement (.oraAby w) := ⟨0x19, _, rfl, rfl, rfl⟩
theorem oraIzx (z : Byte) : Statement (.oraIzx z) := ⟨0x01, _, rfl, rfl, rfl⟩
theorem oraIzy (z : Byte) : Statement (.oraIzy z) := ⟨0x11, _, rfl, rfl, rfl⟩
theorem eorImm (imm : Byte) : Statement (.eorImm imm) := ⟨0x49, _, rfl, rfl, rfl⟩
theorem eorZp (z : Byte) : Statement (.eorZp z) := ⟨0x45, _, rfl, rfl, rfl⟩
theorem eorZpx (z : Byte) : Statement (.eorZpx z) := ⟨0x55, _, rfl, rfl, rfl⟩
theorem eorAbs (w : Addr) : Statement (.eorAbs w) := ⟨0x4D, _, rfl, rfl, rfl⟩
theorem eorAbx (w : Addr) : Statement (.eorAbx w) := ⟨0x5D, _, rfl, rfl, rfl⟩
theorem eorAby (w : Addr) : Statement (.eorAby w) := ⟨0x59, _, rfl, rfl, rfl⟩
theorem eorIzx (z : Byte) : Statement (.eorIzx z) := ⟨0x41, _, rfl, rfl, rfl⟩
theorem eorIzy (z : Byte) : Statement (.eorIzy z) := ⟨0x51, _, rfl, rfl, rfl⟩
theorem bitZp (z : Byte) : Statement (.bitZp z) := ⟨0x24, _, rfl, rfl, rfl⟩
theorem bitAbs (w : Addr) : Statement (.bitAbs w) := ⟨0x2C, _, rfl, rfl, rfl⟩
theorem cmpImm (imm : Byte) : Statement (.cmpImm imm) := ⟨0xC9, _, rfl, rfl, rfl⟩
theorem cmpZp (z : Byte) : Statement (.cmpZp z) := ⟨0xC5, _, rfl, rfl, rfl⟩
theorem cmpZpx (z : Byte) : Statement (.cmpZpx z) := ⟨0xD5, _, rfl, rfl, rfl⟩
theorem cmpAbs (w : Addr) : Statement (.cmpAbs w) := ⟨0xCD, _, rfl, rfl, rfl⟩
theorem cmpAbx (w : Addr) : Statement (.cmpAbx w) := ⟨0xDD, _, rfl, rfl, rfl⟩
theorem cmpAby (w : Addr) : Statement (.cmpAby w) := ⟨0xD9, _, rfl, rfl, rfl⟩
theorem cmpIzx (z : Byte) : Statement (.cmpIzx z) := ⟨0xC1, _, rfl, rfl, rfl⟩
theorem cmpIzy (z : Byte) : Statement (.cmpIzy z) := ⟨0xD1, _, rfl, rfl, rfl⟩
theorem cpxImm (imm : Byte) : Statement (.cpxImm imm) := ⟨0xE0, _, rfl, rfl, rfl⟩
theorem cpxZp (z : Byte) : Statement (.cpxZp z) := ⟨0xE4, _, rfl, rfl, rfl⟩
theorem cpxAbs (w : Addr) : Statement (.cpxAbs w) := ⟨0xEC, _, rfl, rfl, rfl⟩
theorem cpyImm (imm : Byte) : Statement (.cpyImm imm) := ⟨0xC0, _, rfl, rfl, rfl⟩
theorem cpyZp (z : Byte) : Statement (.cpyZp z) := ⟨0xC4, _, rfl, rfl, rfl⟩
theorem cpyAbs (w : Addr) : Statement (.cpyAbs w) := ⟨0xCC, _, rfl, rfl, rfl⟩
theorem aslAcc : Statement (.aslAcc) := ⟨0x0A, _, rfl, rfl, rfl⟩
theorem aslZp (z : Byte) : Statement (.aslZp z) := ⟨0x06, _, rfl, rfl, rfl⟩
theorem aslZpx (z : Byte) : Statement (.aslZpx z) := ⟨0x16, _, rfl, rfl, rfl⟩
theorem aslAbs (w : Addr) : Statement (.aslAbs w) := ⟨0x0E, _, rfl, rfl, rfl⟩
theorem aslAbx (w : Addr) : Statement (.aslAbx w) := ⟨0x1E, _, rfl, rfl, rfl⟩
theorem lsrAcc : Statement (.lsrAcc) := ⟨0x4A, _, rfl, rfl, rfl⟩
theorem lsrZp (z : Byte) : Statement (.lsrZp z) := ⟨0x46, _, rfl, rfl, rfl⟩
theorem lsrZpx (z : Byte) : Statement (.lsrZpx z) := ⟨0x56, _, rfl, rfl, rfl⟩
theorem lsrAbs (w : Addr) : Statement (.lsrAbs w) := ⟨0x4E, _, rfl, rfl, rfl⟩
theorem lsrAbx (w : Addr) : Statement (.lsrAbx w) := ⟨0x5E, _, rfl, rfl, rfl⟩
theorem rolAcc : Statement (.rolAcc) := ⟨0x2A, _, rfl, rfl, rfl⟩
theorem rolZp (z : Byte) : Statement (.rolZp z) := ⟨0x26, _, rfl, rfl, rfl⟩
theorem rolZpx (z : Byte) : Statement (.rolZpx z) := ⟨0x36, _, rfl, rfl, rfl⟩
theorem rolAbs (w : Addr) : Statement (.rolAbs w) := ⟨0x2E, _, rfl, rfl, rfl⟩
theorem rolAbx (w : Addr) : Statement (.rolAbx w) := ⟨0x3E, _, rfl, rfl, rfl⟩
theorem rorAcc : Statement (.rorAcc) := ⟨0x6A, _, rfl, rfl, rfl⟩
theorem rorZp (z : Byte) : Statement (.rorZp z) := ⟨0x66, _, rfl, rfl, rfl⟩
theorem rorZpx (z : Byte) : Statement (.rorZpx z) := ⟨0x76, _, rfl, rfl, rfl⟩
theorem rorAbs (w : Addr) : Statement (.rorAbs w) := ⟨0x6E, _, rfl, rfl, rfl⟩
theorem rorAbx (w : Addr) : Statement (.rorAbx w) := ⟨0x7E, _, rfl, rfl, rfl⟩
theorem incZp (z : Byte) : Statement (.incZp z) := ⟨0xE6, _, rfl, rfl, rfl⟩
theorem incZpx (z : Byte) : Statement (.incZpx z) := ⟨0xF6, _, rfl, rfl, rfl⟩
theorem incAbs (w : Addr) : Statement (.incAbs w) := ⟨0xEE, _, rfl, rfl, rfl⟩
theorem incAbx (w : Addr) : Statement (.incAbx w) := ⟨0xFE, _, rfl, rfl, rfl⟩
theorem decZp (z : Byte) : Statement (.decZp z) := ⟨0xC6, _, rfl, rfl, rfl⟩
theorem decZpx (z : Byte) : Statement (.decZpx z) := ⟨0xD6, _, rfl, rfl, rfl⟩
theorem decAbs (w : Addr) : Statement (.decAbs w) := ⟨0xCE, _, rfl, rfl, rfl⟩
theorem decAbx (w : Addr) : Statement (.decAbx w) := ⟨0xDE, _, rfl, rfl, rfl⟩
theorem inx : Statement (.inx) := ⟨0xE8, _, rfl, rfl, rfl⟩
theorem iny : Statement (.iny) := ⟨0xC8, _, rfl, rfl, rfl⟩
theorem dex : Statement (.dex) := ⟨0xCA, _, rfl, rfl, rfl⟩
theorem dey : Statement (.dey) := ⟨0x88, _, rfl, rfl, rfl⟩
theorem jmpAbs (w : Addr) : Statement (.jmpAbs w) := ⟨0x4C, _, rfl, rfl, rfl⟩
theorem jmpInd (w : Addr) : Statement (.jmpInd w) := ⟨0x6C, _, rfl, rfl, rfl⟩
theorem jsr (w : Addr) : Statement (.jsr w) := ⟨0x20, _, rfl, rfl, rfl⟩
theorem rts : Statement (.rts) := ⟨0x60, _, rfl, rfl, rfl⟩
theorem rti : Statement (.rti) := ⟨0x40, _, rfl, rfl, rfl⟩
theorem brk : Statement (.brk) := ⟨0x00, _, rfl, rfl, rfl⟩
theorem bcc (off : Byte) : Statement (.bcc off) := ⟨0x90, _, rfl, rfl, rfl⟩
theorem bcs (off : Byte) : Statement (.bcs off) := ⟨0xB0, _, rfl, rfl, rfl⟩
theorem beq (off : Byte) : Statement (.beq off) := ⟨0xF0, _, rfl, rfl, rfl⟩
theorem bne (off : Byte) : Statement (.bne off) := ⟨0xD0, _, rfl, rfl, rfl⟩
theorem bmi (off : Byte) : Statement (.bmi off) := ⟨0x30, _, rfl, rfl, rfl⟩
theorem bpl (off : Byte) : Statement (.bpl off) := ⟨0x10, _, rfl, rfl, rfl⟩
theorem bvc (off : Byte) : Statement (.bvc off) := ⟨0x50, _, rfl, rfl, rfl⟩
theorem bvs (off : Byte) : Statement (.bvs off) := ⟨0x70, _, rfl, rfl, rfl⟩
theorem pha : Statement (.pha) := ⟨0x48, _, rfl, rfl, rfl⟩
theorem php : Statement (.php) := ⟨0x08, _, rfl, rfl, rfl⟩
theorem pla : Statement (.pla) := ⟨0x68, _, rfl, rfl, rfl⟩
theorem plp : Statement (.plp) := ⟨0x28, _, rfl, rfl, rfl⟩
theorem clc : Statement (.clc) := ⟨0x18, _, rfl, rfl, rfl⟩
theorem sec : Statement (.sec) := ⟨0x38, _, rfl, rfl, rfl⟩
theorem cli : Statement (.cli) := ⟨0x58, _, rfl, rfl, rfl⟩
theorem sei : Statement (.sei) := ⟨0x78, _, rfl, rfl, rfl⟩
theorem cld : Statement (.cld) := ⟨0xD8, _, rfl, rfl, rfl⟩
theorem sed : Statement (.sed) := ⟨0xF8, _, rfl, rfl, rfl⟩
theorem clv : Statement (.clv) := ⟨0xB8, _, rfl, rfl, rfl⟩
theorem nop : Statement (.nop) := ⟨0xEA, _, rfl, rfl, rfl⟩

end Sys2Proof.Laws.EncodedRow
end

