-- ==== Sys2Proof/Tests/Slice0.lean ====
section
/-! SUPPORT. Tests: the well-formedness checks refuse; every opcode of spec/opcode_table.json decodes to its instruction; one-step vectors of spec/95_test_vectors.md; and, for every statement with hypotheses, a witness that meets them. -/

namespace Sys2Proof.Tests

open Sys2Proof Sys2Proof.Machine

set_option maxRecDepth 4000

/-! ## Well-formedness: an ill-formed term for each check, which the check refuses -/

theorem test_wf_blank : Config.blank.wellFormed = true := by decide
theorem test_wf_no_bank : ({ Config.blank with prgBanks16 := 0 } : Config).wellFormed =
    false := by decide
theorem test_wf_prg_too_long :
    ({ Config.blank with prg := [(0x4000, 0x01)] } : Config).wellFormed = false := by decide
theorem test_wf_prg_last_byte :
    ({ Config.blank with prg := [(0x3FFF, 0x01)] } : Config).wellFormed = true := by decide
theorem test_wf_chr_too_long : ({ Config.blank with chr := [(0, 0x01)] } : Config).wellFormed =
    false := by decide
theorem test_wf_fixed_prg : ({ Config.blank with prgBanks16 := 3 } : Config).wellFormed = false :=
    by decide
theorem test_wf_fixed_chr : ({ Config.blank with chrBanks8 := 2 } : Config).wellFormed = false :=
    by decide
theorem test_wf_serial_prg :
    ({ Config.blank with variant := .serial, prgBanks16 := 17 } : Config).wellFormed = false :=
        by decide
theorem test_wf_serial_chr :
    ({ Config.blank with variant := .serial, chrBanks8 := 17 } : Config).wellFormed = false :=
        by decide
theorem test_wf_scanline_prg :
    ({ Config.blank with variant := .scanline, prgBanks16 := 129 } : Config).wellFormed = false :=
        by decide
theorem test_wf_scanline_chr :
    ({ Config.blank with variant := .scanline, chrBanks8 := 33 } : Config).wellFormed =
        false := by decide
theorem test_wf_trainer :
    ({ Config.blank with trainer := some [0x00] } : Config).wellFormed = false := by decide
theorem test_wf_scanline_largest :
    ({ Config.blank with variant := .scanline, prgBanks16 := 128, chrBanks8 := 32 } :
        Config).wellFormed = true := by
  decide

/-! ## Decoding: the words of spec/opcode_table.json, operand byte 0x12, operand word 0x1234 -/

theorem test_decode_loads_1 :
    decode [0xA0, 0x12] = .ok (.ldyImm 0x12, []) ∧
    decode [0xA1, 0x12] = .ok (.ldaIzx 0x12, []) ∧
    decode [0xA2, 0x12] = .ok (.ldxImm 0x12, []) ∧
    decode [0xA4, 0x12] = .ok (.ldyZp 0x12, []) ∧
    decode [0xA5, 0x12] = .ok (.ldaZp 0x12, []) ∧
    decode [0xA6, 0x12] = .ok (.ldxZp 0x12, []) ∧
    decode [0xA9, 0x12] = .ok (.ldaImm 0x12, []) ∧
    decode [0xAC, 0x34, 0x12] = .ok (.ldyAbs 0x1234, []) ∧
    decode [0xAD, 0x34, 0x12] = .ok (.ldaAbs 0x1234, []) ∧
    decode [0xAE, 0x34, 0x12] = .ok (.ldxAbs 0x1234, []) ∧
    decode [0xB1, 0x12] = .ok (.ldaIzy 0x12, []) ∧
    decode [0xB4, 0x12] = .ok (.ldyZpx 0x12, []) :=
  ⟨rfl, rfl, rfl, rfl, rfl, rfl, rfl, rfl, rfl, rfl, rfl, rfl⟩

theorem test_decode_loads_2 :
    decode [0xB5, 0x12] = .ok (.ldaZpx 0x12, []) ∧
    decode [0xB6, 0x12] = .ok (.ldxZpy 0x12, []) ∧
    decode [0xB9, 0x34, 0x12] = .ok (.ldaAby 0x1234, []) ∧
    decode [0xBC, 0x34, 0x12] = .ok (.ldyAbx 0x1234, []) ∧
    decode [0xBD, 0x34, 0x12] = .ok (.ldaAbx 0x1234, []) ∧
    decode [0xBE, 0x34, 0x12] = .ok (.ldxAby 0x1234, []) :=
  ⟨rfl, rfl, rfl, rfl, rfl, rfl⟩

theorem test_decode_stores_1 :
    decode [0x81, 0x12] = .ok (.staIzx 0x12, []) ∧
    decode [0x84, 0x12] = .ok (.styZp 0x12, []) ∧
    decode [0x85, 0x12] = .ok (.staZp 0x12, []) ∧
    decode [0x86, 0x12] = .ok (.stxZp 0x12, []) ∧
    decode [0x8C, 0x34, 0x12] = .ok (.styAbs 0x1234, []) ∧
    decode [0x8D, 0x34, 0x12] = .ok (.staAbs 0x1234, []) ∧
    decode [0x8E, 0x34, 0x12] = .ok (.stxAbs 0x1234, []) ∧
    decode [0x91, 0x12] = .ok (.staIzy 0x12, []) ∧
    decode [0x94, 0x12] = .ok (.styZpx 0x12, []) ∧
    decode [0x95, 0x12] = .ok (.staZpx 0x12, []) ∧
    decode [0x96, 0x12] = .ok (.stxZpy 0x12, []) ∧
    decode [0x99, 0x34, 0x12] = .ok (.staAby 0x1234, []) :=
  ⟨rfl, rfl, rfl, rfl, rfl, rfl, rfl, rfl, rfl, rfl, rfl, rfl⟩

theorem test_decode_stores_2 :
    decode [0x9D, 0x34, 0x12] = .ok (.staAbx 0x1234, []) :=
  rfl

theorem test_decode_transfers :
    decode [0x8A] = .ok (.txa, []) ∧
    decode [0x98] = .ok (.tya, []) ∧
    decode [0x9A] = .ok (.txs, []) ∧
    decode [0xA8] = .ok (.tay, []) ∧
    decode [0xAA] = .ok (.tax, []) ∧
    decode [0xBA] = .ok (.tsx, []) :=
  ⟨rfl, rfl, rfl, rfl, rfl, rfl⟩

theorem test_decode_adc_sbc_1 :
    decode [0x61, 0x12] = .ok (.adcIzx 0x12, []) ∧
    decode [0x65, 0x12] = .ok (.adcZp 0x12, []) ∧
    decode [0x69, 0x12] = .ok (.adcImm 0x12, []) ∧
    decode [0x6D, 0x34, 0x12] = .ok (.adcAbs 0x1234, []) ∧
    decode [0x71, 0x12] = .ok (.adcIzy 0x12, []) ∧
    decode [0x75, 0x12] = .ok (.adcZpx 0x12, []) ∧
    decode [0x79, 0x34, 0x12] = .ok (.adcAby 0x1234, []) ∧
    decode [0x7D, 0x34, 0x12] = .ok (.adcAbx 0x1234, []) ∧
    decode [0xE1, 0x12] = .ok (.sbcIzx 0x12, []) ∧
    decode [0xE5, 0x12] = .ok (.sbcZp 0x12, []) ∧
    decode [0xE9, 0x12] = .ok (.sbcImm 0x12, []) ∧
    decode [0xED, 0x34, 0x12] = .ok (.sbcAbs 0x1234, []) :=
  ⟨rfl, rfl, rfl, rfl, rfl, rfl, rfl, rfl, rfl, rfl, rfl, rfl⟩

theorem test_decode_adc_sbc_2 :
    decode [0xF1, 0x12] = .ok (.sbcIzy 0x12, []) ∧
    decode [0xF5, 0x12] = .ok (.sbcZpx 0x12, []) ∧
    decode [0xF9, 0x34, 0x12] = .ok (.sbcAby 0x1234, []) ∧
    decode [0xFD, 0x34, 0x12] = .ok (.sbcAbx 0x1234, []) :=
  ⟨rfl, rfl, rfl, rfl⟩

theorem test_decode_logic_1 :
    decode [0x01, 0x12] = .ok (.oraIzx 0x12, []) ∧
    decode [0x05, 0x12] = .ok (.oraZp 0x12, []) ∧
    decode [0x09, 0x12] = .ok (.oraImm 0x12, []) ∧
    decode [0x0D, 0x34, 0x12] = .ok (.oraAbs 0x1234, []) ∧
    decode [0x11, 0x12] = .ok (.oraIzy 0x12, []) ∧
    decode [0x15, 0x12] = .ok (.oraZpx 0x12, []) ∧
    decode [0x19, 0x34, 0x12] = .ok (.oraAby 0x1234, []) ∧
    decode [0x1D, 0x34, 0x12] = .ok (.oraAbx 0x1234, []) ∧
    decode [0x21, 0x12] = .ok (.andIzx 0x12, []) ∧
    decode [0x24, 0x12] = .ok (.bitZp 0x12, []) ∧
    decode [0x25, 0x12] = .ok (.andZp 0x12, []) ∧
    decode [0x29, 0x12] = .ok (.andImm 0x12, []) :=
  ⟨rfl, rfl, rfl, rfl, rfl, rfl, rfl, rfl, rfl, rfl, rfl, rfl⟩

theorem test_decode_logic_2 :
    decode [0x2C, 0x34, 0x12] = .ok (.bitAbs 0x1234, []) ∧
    decode [0x2D, 0x34, 0x12] = .ok (.andAbs 0x1234, []) ∧
    decode [0x31, 0x12] = .ok (.andIzy 0x12, []) ∧
    decode [0x35, 0x12] = .ok (.andZpx 0x12, []) ∧
    decode [0x39, 0x34, 0x12] = .ok (.andAby 0x1234, []) ∧
    decode [0x3D, 0x34, 0x12] = .ok (.andAbx 0x1234, []) ∧
    decode [0x41, 0x12] = .ok (.eorIzx 0x12, []) ∧
    decode [0x45, 0x12] = .ok (.eorZp 0x12, []) ∧
    decode [0x49, 0x12] = .ok (.eorImm 0x12, []) ∧
    decode [0x4D, 0x34, 0x12] = .ok (.eorAbs 0x1234, []) ∧
    decode [0x51, 0x12] = .ok (.eorIzy 0x12, []) ∧
    decode [0x55, 0x12] = .ok (.eorZpx 0x12, []) :=
  ⟨rfl, rfl, rfl, rfl, rfl, rfl, rfl, rfl, rfl, rfl, rfl, rfl⟩

theorem test_decode_logic_3 :
    decode [0x59, 0x34, 0x12] = .ok (.eorAby 0x1234, []) ∧
    decode [0x5D, 0x34, 0x12] = .ok (.eorAbx 0x1234, []) :=
  ⟨rfl, rfl⟩

theorem test_decode_compares_1 :
    decode [0xC0, 0x12] = .ok (.cpyImm 0x12, []) ∧
    decode [0xC1, 0x12] = .ok (.cmpIzx 0x12, []) ∧
    decode [0xC4, 0x12] = .ok (.cpyZp 0x12, []) ∧
    decode [0xC5, 0x12] = .ok (.cmpZp 0x12, []) ∧
    decode [0xC9, 0x12] = .ok (.cmpImm 0x12, []) ∧
    decode [0xCC, 0x34, 0x12] = .ok (.cpyAbs 0x1234, []) ∧
    decode [0xCD, 0x34, 0x12] = .ok (.cmpAbs 0x1234, []) ∧
    decode [0xD1, 0x12] = .ok (.cmpIzy 0x12, []) ∧
    decode [0xD5, 0x12] = .ok (.cmpZpx 0x12, []) ∧
    decode [0xD9, 0x34, 0x12] = .ok (.cmpAby 0x1234, []) ∧
    decode [0xDD, 0x34, 0x12] = .ok (.cmpAbx 0x1234, []) ∧
    decode [0xE0, 0x12] = .ok (.cpxImm 0x12, []) :=
  ⟨rfl, rfl, rfl, rfl, rfl, rfl, rfl, rfl, rfl, rfl, rfl, rfl⟩

theorem test_decode_compares_2 :
    decode [0xE4, 0x12] = .ok (.cpxZp 0x12, []) ∧
    decode [0xEC, 0x34, 0x12] = .ok (.cpxAbs 0x1234, []) :=
  ⟨rfl, rfl⟩

theorem test_decode_shifts_1 :
    decode [0x06, 0x12] = .ok (.aslZp 0x12, []) ∧
    decode [0x0A] = .ok (.aslAcc, []) ∧
    decode [0x0E, 0x34, 0x12] = .ok (.aslAbs 0x1234, []) ∧
    decode [0x16, 0x12] = .ok (.aslZpx 0x12, []) ∧
    decode [0x1E, 0x34, 0x12] = .ok (.aslAbx 0x1234, []) ∧
    decode [0x26, 0x12] = .ok (.rolZp 0x12, []) ∧
    decode [0x2A] = .ok (.rolAcc, []) ∧
    decode [0x2E, 0x34, 0x12] = .ok (.rolAbs 0x1234, []) ∧
    decode [0x36, 0x12] = .ok (.rolZpx 0x12, []) ∧
    decode [0x3E, 0x34, 0x12] = .ok (.rolAbx 0x1234, []) ∧
    decode [0x46, 0x12] = .ok (.lsrZp 0x12, []) ∧
    decode [0x4A] = .ok (.lsrAcc, []) :=
  ⟨rfl, rfl, rfl, rfl, rfl, rfl, rfl, rfl, rfl, rfl, rfl, rfl⟩

theorem test_decode_shifts_2 :
    decode [0x4E, 0x34, 0x12] = .ok (.lsrAbs 0x1234, []) ∧
    decode [0x56, 0x12] = .ok (.lsrZpx 0x12, []) ∧
    decode [0x5E, 0x34, 0x12] = .ok (.lsrAbx 0x1234, []) ∧
    decode [0x66, 0x12] = .ok (.rorZp 0x12, []) ∧
    decode [0x6A] = .ok (.rorAcc, []) ∧
    decode [0x6E, 0x34, 0x12] = .ok (.rorAbs 0x1234, []) ∧
    decode [0x76, 0x12] = .ok (.rorZpx 0x12, []) ∧
    decode [0x7E, 0x34, 0x12] = .ok (.rorAbx 0x1234, []) :=
  ⟨rfl, rfl, rfl, rfl, rfl, rfl, rfl, rfl⟩

theorem test_decode_steps :
    decode [0x88] = .ok (.dey, []) ∧
    decode [0xC6, 0x12] = .ok (.decZp 0x12, []) ∧
    decode [0xC8] = .ok (.iny, []) ∧
    decode [0xCA] = .ok (.dex, []) ∧
    decode [0xCE, 0x34, 0x12] = .ok (.decAbs 0x1234, []) ∧
    decode [0xD6, 0x12] = .ok (.decZpx 0x12, []) ∧
    decode [0xDE, 0x34, 0x12] = .ok (.decAbx 0x1234, []) ∧
    decode [0xE6, 0x12] = .ok (.incZp 0x12, []) ∧
    decode [0xE8] = .ok (.inx, []) ∧
    decode [0xEE, 0x34, 0x12] = .ok (.incAbs 0x1234, []) ∧
    decode [0xF6, 0x12] = .ok (.incZpx 0x12, []) ∧
    decode [0xFE, 0x34, 0x12] = .ok (.incAbx 0x1234, []) :=
  ⟨rfl, rfl, rfl, rfl, rfl, rfl, rfl, rfl, rfl, rfl, rfl, rfl⟩

theorem test_decode_control :
    decode [0x00] = .ok (.brk, []) ∧
    decode [0x20, 0x34, 0x12] = .ok (.jsr 0x1234, []) ∧
    decode [0x40] = .ok (.rti, []) ∧
    decode [0x4C, 0x34, 0x12] = .ok (.jmpAbs 0x1234, []) ∧
    decode [0x60] = .ok (.rts, []) ∧
    decode [0x6C, 0x34, 0x12] = .ok (.jmpInd 0x1234, []) :=
  ⟨rfl, rfl, rfl, rfl, rfl, rfl⟩

theorem test_decode_branches :
    decode [0x10, 0x12] = .ok (.bpl 0x12, []) ∧
    decode [0x30, 0x12] = .ok (.bmi 0x12, []) ∧
    decode [0x50, 0x12] = .ok (.bvc 0x12, []) ∧
    decode [0x70, 0x12] = .ok (.bvs 0x12, []) ∧
    decode [0x90, 0x12] = .ok (.bcc 0x12, []) ∧
    decode [0xB0, 0x12] = .ok (.bcs 0x12, []) ∧
    decode [0xD0, 0x12] = .ok (.bne 0x12, []) ∧
    decode [0xF0, 0x12] = .ok (.beq 0x12, []) :=
  ⟨rfl, rfl, rfl, rfl, rfl, rfl, rfl, rfl⟩

theorem test_decode_stack_flags :
    decode [0x08] = .ok (.php, []) ∧
    decode [0x18] = .ok (.clc, []) ∧
    decode [0x28] = .ok (.plp, []) ∧
    decode [0x38] = .ok (.sec, []) ∧
    decode [0x48] = .ok (.pha, []) ∧
    decode [0x58] = .ok (.cli, []) ∧
    decode [0x68] = .ok (.pla, []) ∧
    decode [0x78] = .ok (.sei, []) ∧
    decode [0xB8] = .ok (.clv, []) ∧
    decode [0xD8] = .ok (.cld, []) ∧
    decode [0xEA] = .ok (.nop, []) ∧
    decode [0xF8] = .ok (.sed, []) :=
  ⟨rfl, rfl, rfl, rfl, rfl, rfl, rfl, rfl, rfl, rfl, rfl, rfl⟩

theorem test_decode_refused : decode [0x02] = .error (.unrecognizedOpcode 0x02) ∧
    decode [0xEB, 0x01] = .error (.unrecognizedOpcode 0xEB) := ⟨rfl, rfl⟩
theorem test_decode_short : decode [] = .error .truncated ∧ decode [0xAD, 0x02] =
    .error .truncated := ⟨rfl, rfl⟩
theorem test_encode_ends : encode (.brk) = [0x00] ∧ encode (.incAbx 0xFFFF) = [0xFE, 0xFF,
    0xFF] := by decide

/-! ## One instruction each, from the tables of 95_test_vectors.md section 2.1 -/

/-- A Processor at an instruction boundary. -/
def cpu (a x y s p : Byte) (pc : Addr) : Cpu where
  a := a
  x := x
  y := y
  s := s
  p := p
  pc := pc
  cyc := 0
  pgx := false
  halted := false
  haltInfo := none
  nmiPrev := false

/-- The reset machine with these Processor registers and this work RAM. -/
def small (c : Cpu) (ram : Memory) : State := { State.reset with cpu := c, wram := ram }

/-- `s` with this program image. -/
def State.withRom (s : State) (rom : Memory) : State := { s with cfg := { s.cfg with prg := rom } }

/-- The next state of an outcome that has one. -/
def next (o : Out) (s : State) : State :=
  match o with
  | .next t => t
  | .fault _ => s
  | .refused _ => s

/-- The state after one instruction. -/
def after (i : Instr) (s : State) : State := next (exec i s) s

/-- LDA #$80 -/
theorem test_lda_1 :
    let t := after (.ldaImm 0x80) (small (cpu 0x00 0x00 0x00 0xFD 0x24 0x8000) [])
    t.cpu.a = 0x80 ∧ t.cpu.p = 0xA4 := by decide

/-- LDA ($FF),Y cross -/
theorem test_lda_2 :
    let t := after (.ldaIzy 0xFF) (small (cpu 0x00 0x00 0x10 0xFD 0x24 0x8000) [(0x0000, 0x02),
        (0x00FF, 0xF0), (0x0300, 0x55)])
    t.cpu.a = 0x55 ∧ t.cpu.cyc = 6 := by decide

/-- LDX $F0,Y zp wrap -/
theorem test_ldx_1 :
    let t := after (.ldxZpy 0xF0) (small (cpu 0x00 0x00 0x20 0xFD 0x24 0x8000) [])
    t.cpu.p = 0x26 ∧ t.cpu.cyc = 4 := by decide

/-- LDY $0300,X cross -/
theorem test_ldy_1 :
    let t := after (.ldyAbx 0x02FF) (small (cpu 0x00 0x02 0x00 0xFD 0x24 0x8000) [(0x0301, 0xFE)])
    t.cpu.y = 0xFE ∧ t.cpu.p = 0xA4 ∧ t.cpu.cyc = 5 := by decide

/-- STA $01FF,X cross -/
theorem test_sta_1 :
    let t := after (.staAbx 0x01FF) (small (cpu 0x5A 0x01 0x00 0xFD 0x24 0x8000) [])
    t.wram.read 0x0200 = 0x5A ∧ t.cpu.cyc = 5 := by decide

/-- STA ($10),Y -/
theorem test_sta_2 :
    let t := after (.staIzy 0x10) (small (cpu 0xA5 0x00 0xFF 0xFD 0x24 0x8000) [(0x0010, 0x01),
        (0x0011, 0x02)])
    t.wram.read 0x0300 = 0xA5 ∧ t.cpu.cyc = 6 := by decide

/-- STX $F0,Y -/
theorem test_stx_1 :
    let t := after (.stxZpy 0xF0) (small (cpu 0x00 0x77 0x11 0xFD 0x24 0x8000) [])
    t.wram.read 0x0001 = 0x77 ∧ t.cpu.cyc = 4 := by decide

/-- STY $10 -/
theorem test_sty_1 :
    let t := after (.styZp 0x10) (small (cpu 0x00 0x00 0x00 0xFD 0xA4 0x8000) [])
    t.wram.read 0x0010 = 0x00 ∧ t.cpu.cyc = 3 := by decide

/-- TAX zero -/
theorem test_tax_1 :
    let t := after .tax (small (cpu 0x00 0x55 0x00 0xFD 0x24 0x8000) [])
    t.cpu.x = 0x00 ∧ t.cpu.p = 0x26 := by decide

/-- TAY neg -/
theorem test_tay_1 :
    let t := after .tay (small (cpu 0x90 0x00 0x00 0xFD 0x24 0x8000) [])
    t.cpu.y = 0x90 ∧ t.cpu.p = 0xA4 := by decide

/-- TXA -/
theorem test_txa_1 :
    let t := after .txa (small (cpu 0x00 0x01 0x00 0xFD 0xA6 0x8000) [])
    t.cpu.a = 0x01 ∧ t.cpu.p = 0x24 := by decide

/-- TYA -/
theorem test_tya_1 :
    let t := after .tya (small (cpu 0x00 0x00 0xFF 0xFD 0x24 0x8000) [])
    t.cpu.a = 0xFF ∧ t.cpu.p = 0xA4 := by decide

/-- TSX -/
theorem test_tsx_1 :
    let t := after .tsx (small (cpu 0x00 0x00 0x00 0xFD 0x24 0x8000) [])
    t.cpu.x = 0xFD ∧ t.cpu.p = 0xA4 := by decide

/-- TXS no flags -/
theorem test_txs_1 :
    let t := after .txs (small (cpu 0x00 0x00 0x00 0xFD 0x24 0x8000) [])
    t.cpu.s = 0x00 ∧ t.cpu.cyc = 2 := by decide

/-- ADC D0+90 -/
theorem test_adc_1 :
    let t := after (.adcImm 0x90) (small (cpu 0xD0 0x00 0x00 0xFD 0x24 0x8000) [])
    t.cpu.a = 0x60 ∧ t.cpu.p = 0x65 := by decide

/-- ADC 09+01 with D set -/
theorem test_adc_2 :
    let t := after (.adcImm 0x01) (small (cpu 0x09 0x00 0x00 0xFD 0x2C 0x8000) [])
    t.cpu.a = 0x0A ∧ t.cpu.cyc = 2 := by decide

/-- SBC 50-B0 -/
theorem test_sbc_1 :
    let t := after (.sbcImm 0xB0) (small (cpu 0x50 0x00 0x00 0xFD 0x25 0x8000) [])
    t.cpu.a = 0xA0 ∧ t.cpu.p = 0xE4 := by decide

/-- SBC 40-40 C=0 -/
theorem test_sbc_2 :
    let t := after (.sbcImm 0x40) (small (cpu 0x40 0x00 0x00 0xFD 0x24 0x8000) [])
    t.cpu.a = 0xFF ∧ t.cpu.p = 0xA4 := by decide

/-- AND -/
theorem test_and_1 :
    let t := after (.andImm 0x0F) (small (cpu 0xF0 0x00 0x00 0xFD 0x24 0x8000) [])
    t.cpu.a = 0x00 ∧ t.cpu.p = 0x26 := by decide

/-- AND neg -/
theorem test_and_2 :
    let t := after (.andImm 0xF0) (small (cpu 0x90 0x00 0x00 0xFD 0x24 0x8000) [])
    t.cpu.p = 0xA4 ∧ t.cpu.cyc = 2 := by decide

/-- ORA -/
theorem test_ora_1 :
    let t := after (.oraImm 0x80) (small (cpu 0x01 0x00 0x00 0xFD 0x24 0x8000) [])
    t.cpu.a = 0x81 ∧ t.cpu.p = 0xA4 := by decide

/-- ORA zero -/
theorem test_ora_2 :
    let t := after (.oraImm 0x00) (small (cpu 0x00 0x00 0x00 0xFD 0x24 0x8000) [])
    t.cpu.p = 0x26 ∧ t.cpu.cyc = 2 := by decide

/-- EOR self -/
theorem test_eor_1 :
    let t := after (.eorImm 0xAA) (small (cpu 0xAA 0x00 0x00 0xFD 0x24 0x8000) [])
    t.cpu.a = 0x00 ∧ t.cpu.p = 0x26 := by decide

/-- EOR -/
theorem test_eor_2 :
    let t := after (.eorImm 0xFF) (small (cpu 0x0F 0x00 0x00 0xFD 0x24 0x8000) [])
    t.cpu.a = 0xF0 ∧ t.cpu.p = 0xA4 := by decide

/-- BIT $10 M=C0 -/
theorem test_bit_1 :
    let t := after (.bitZp 0x10) (small (cpu 0x01 0x00 0x00 0xFD 0x24 0x8000) [(0x0010, 0xC0)])
    t.cpu.p = 0xE6 ∧ t.cpu.cyc = 3 := by decide

/-- BIT $0300 M=40 -/
theorem test_bit_2 :
    let t := after (.bitAbs 0x0300) (small (cpu 0x40 0x00 0x00 0xFD 0x24 0x8000) [(0x0300, 0x40)])
    t.cpu.p = 0x64 ∧ t.cpu.cyc = 4 := by decide

/-- CMP less -/
theorem test_cmp_1 :
    let t := after (.cmpImm 0x41) (small (cpu 0x40 0x00 0x00 0xFD 0x24 0x8000) [])
    t.cpu.p = 0xA4 ∧ t.cpu.cyc = 2 := by decide

/-- CPX greater -/
theorem test_cpx_1 :
    let t := after (.cpxImm 0x10) (small (cpu 0x00 0x20 0x00 0xFD 0x24 0x8000) [])
    t.cpu.p = 0x25 ∧ t.cpu.cyc = 2 := by decide

/-- CPY $10 less -/
theorem test_cpy_1 :
    let t := after (.cpyZp 0x10) (small (cpu 0x00 0x00 0x01 0xFD 0x24 0x8000) [(0x0010, 0x02)])
    t.cpu.p = 0xA4 ∧ t.cpu.cyc = 3 := by decide

/-- CMP $01FF,X cross -/
theorem test_cmp_2 :
    let t := after (.cmpAbx 0x01FF) (small (cpu 0x10 0x01 0x00 0xFD 0x24 0x8000) [(0x0200, 0x10)])
    t.cpu.p = 0x27 ∧ t.cpu.cyc = 5 := by decide

/-- ASL A 80 -/
theorem test_asl_1 :
    let t := after .aslAcc (small (cpu 0x80 0x00 0x00 0xFD 0x24 0x8000) [])
    t.cpu.a = 0x00 ∧ t.cpu.p = 0x27 := by decide

/-- LSR A FF -/
theorem test_lsr_1 :
    let t := after .lsrAcc (small (cpu 0xFF 0x00 0x00 0xFD 0xA4 0x8000) [])
    t.cpu.a = 0x7F ∧ t.cpu.p = 0x25 := by decide

/-- ROL A 80 C=1 -/
theorem test_rol_1 :
    let t := after .rolAcc (small (cpu 0x80 0x00 0x00 0xFD 0x25 0x8000) [])
    t.cpu.a = 0x01 ∧ t.cpu.cyc = 2 := by decide

/-- ROR A 01 C=1 -/
theorem test_ror_1 :
    let t := after .rorAcc (small (cpu 0x01 0x00 0x00 0xFD 0x25 0x8000) [])
    t.cpu.a = 0x80 ∧ t.cpu.p = 0xA5 := by decide

/-- ROR $10 C=1 -/
theorem test_ror_2 :
    let t := after (.rorZp 0x10) (small (cpu 0x00 0x00 0x00 0xFD 0x25 0x8000) [(0x0010, 0x02)])
    t.cpu.p = 0xA4 ∧ t.wram.read 0x0010 = 0x81 := by decide

/-- ASL $01FF,X -/
theorem test_asl_2 :
    let t := after (.aslAbx 0x01FF) (small (cpu 0x00 0x01 0x00 0xFD 0x24 0x8000) [(0x0200, 0xC0)])
    t.cpu.p = 0xA5 ∧ t.wram.read 0x0200 = 0x80 := by decide

/-- LSR $F0,X -/
theorem test_lsr_2 :
    let t := after (.lsrZpx 0xF0) (small (cpu 0x00 0x20 0x00 0xFD 0x24 0x8000) [(0x0010, 0x03)])
    t.cpu.p = 0x25 ∧ t.wram.read 0x0010 = 0x01 := by decide

/-- ROL $0300 -/
theorem test_rol_2 :
    let t := after (.rolAbs 0x0300) (small (cpu 0x00 0x00 0x00 0xFD 0x24 0x8000) [(0x0300, 0xFF)])
    t.cpu.p = 0xA5 ∧ t.wram.read 0x0300 = 0xFE := by decide

/-- INC $10 FF -/
theorem test_inc_1 :
    let t := after (.incZp 0x10) (small (cpu 0x00 0x00 0x00 0xFD 0x24 0x8000) [(0x0010, 0xFF)])
    t.cpu.p = 0x26 ∧ t.wram.read 0x0010 = 0x00 := by decide

/-- INC $10 7F -/
theorem test_inc_2 :
    let t := after (.incZp 0x10) (small (cpu 0x00 0x00 0x00 0xFD 0x24 0x8000) [(0x0010, 0x7F)])
    t.cpu.p = 0xA4 ∧ t.wram.read 0x0010 = 0x80 := by decide

/-- DEC $10 00 -/
theorem test_dec_1 :
    let t := after (.decZp 0x10) (small (cpu 0x00 0x00 0x00 0xFD 0x24 0x8000) [])
    t.cpu.p = 0xA4 ∧ t.wram.read 0x0010 = 0xFF := by decide

/-- DEC $0300,X -/
theorem test_dec_2 :
    let t := after (.decAbx 0x0300) (small (cpu 0x00 0x05 0x00 0xFD 0x24 0x8000) [(0x0305, 0x01)])
    t.cpu.p = 0x26 ∧ t.wram.read 0x0305 = 0x00 := by decide

/-- INX wrap -/
theorem test_inx_1 :
    let t := after .inx (small (cpu 0x00 0xFF 0x00 0xFD 0x24 0x8000) [])
    t.cpu.x = 0x00 ∧ t.cpu.p = 0x26 := by decide

/-- INY -/
theorem test_iny_1 :
    let t := after .iny (small (cpu 0x00 0x00 0x7F 0xFD 0x24 0x8000) [])
    t.cpu.y = 0x80 ∧ t.cpu.p = 0xA4 := by decide

/-- DEX -/
theorem test_dex_1 :
    let t := after .dex (small (cpu 0x00 0x01 0x00 0xFD 0x24 0x8000) [])
    t.cpu.x = 0x00 ∧ t.cpu.p = 0x26 := by decide

/-- DEY wrap -/
theorem test_dey_1 :
    let t := after .dey (small (cpu 0x00 0x00 0x00 0xFD 0x24 0x8000) [])
    t.cpu.y = 0xFF ∧ t.cpu.p = 0xA4 := by decide

/-- JMP $1234 -/
theorem test_jmp_1 :
    let t := after (.jmpAbs 0x1234) (small (cpu 0x00 0x00 0x00 0xFD 0x24 0x8000) [])
    t.cpu.pc = 0x1234 ∧ t.cpu.cyc = 3 := by decide

/-- JMP ($02FF) page wrap -/
theorem test_jmp_2 :
    let t := after (.jmpInd 0x02FF) (small (cpu 0x00 0x00 0x00 0xFD 0x24 0x8000) [(0x0200, 0x90),
        (0x0300, 0x40)])
    t.cpu.pc = 0x9000 ∧ t.cpu.cyc = 5 := by decide

/-- JSR $9000 -/
theorem test_jsr_1 :
    let t := after (.jsr 0x9000) (small (cpu 0x00 0x00 0x00 0xFD 0x24 0x8000) [])
    t.cpu.s = 0xFB ∧ t.cpu.pc = 0x9000 ∧ t.wram.read 0x01FD = 0x80 ∧ t.wram.read 0x01FC = 0x02 :=
        by decide

/-- JSR S=01 -/
theorem test_jsr_2 :
    let t := after (.jsr 0x9000) (small (cpu 0x00 0x00 0x00 0x00 0x24 0x80FE) [])
    t.cpu.s = 0xFE ∧ t.cpu.pc = 0x9000 ∧ t.wram.read 0x0100 = 0x81 ∧ t.wram.read 0x01FF = 0x00 :=
        by decide

/-- RTS -/
theorem test_rts_1 :
    let t := after .rts (small (cpu 0x00 0x00 0x00 0xFB 0x24 0x8000) [(0x01FC, 0x02), (0x01FD,
        0x80)])
    t.cpu.s = 0xFD ∧ t.cpu.pc = 0x8003 := by decide

/-- RTS FFFF wrap -/
theorem test_rts_2 :
    let t := after .rts (small (cpu 0x00 0x00 0x00 0xFB 0x24 0x8000) [(0x01FC, 0xFF), (0x01FD,
        0xFF)])
    t.cpu.s = 0xFD ∧ t.cpu.pc = 0x0000 := by decide

/-- RTI -/
theorem test_rti_1 :
    let t := after .rti (small (cpu 0x00 0x00 0x00 0xFA 0x24 0x8000) [(0x01FB, 0xFF), (0x01FC,
        0x23), (0x01FD, 0x81)])
    t.cpu.s = 0xFD ∧ t.cpu.p = 0xEF ∧ t.cpu.pc = 0x8123 := by decide

/-- RTI P=00 -/
theorem test_rti_2 :
    let t := after .rti (small (cpu 0x00 0x00 0x00 0xFA 0xE7 0x8000) [(0x01FD, 0xC0)])
    t.cpu.s = 0xFD ∧ t.cpu.p = 0x20 ∧ t.cpu.pc = 0xC000 := by decide

/-- BRK -/
theorem test_brk_1 :
    let t := after .brk (State.withRom (small (cpu 0x00 0x00 0x00 0xFD 0x23 0x8000) []) [(0x3FFF,
        0xC0)])
    t.cpu.s = 0xFA ∧ t.cpu.p = 0x27 ∧ t.cpu.pc = 0xC000 ∧ t.wram.read 0x01FD = 0x80 ∧
        t.wram.read 0x01FC = 0x02 ∧ t.wram.read 0x01FB = 0x33 := by decide

/-- BRK I already 1 -/
theorem test_brk_2 :
    let t := after .brk (State.withRom (small (cpu 0x00 0x00 0x00 0xFD 0xE5 0x80FF) []) [(0x3FFE,
        0x34), (0x3FFF, 0x12)])
    t.cpu.s = 0xFA ∧ t.cpu.pc = 0x1234 ∧ t.wram.read 0x01FD = 0x81 ∧ t.wram.read 0x01FC = 0x01 ∧
        t.wram.read 0x01FB = 0xF5 := by decide

/-- BNE not taken -/
theorem test_bne_1 :
    let t := after (.bne 0x10) (small (cpu 0x00 0x00 0x00 0xFD 0x26 0x8000) [])
    t.cpu.cyc = 2 ∧ t.cpu.p = 0x26 := by decide

/-- BNE taken -/
theorem test_bne_2 :
    let t := after (.bne 0x10) (small (cpu 0x00 0x00 0x00 0xFD 0x24 0x8000) [])
    t.cpu.pc = 0x8012 ∧ t.cpu.cyc = 3 := by decide

/-- BEQ taken fwd cross -/
theorem test_beq_1 :
    let t := after (.beq 0x20) (small (cpu 0x00 0x00 0x00 0xFD 0x26 0x80F0) [])
    t.cpu.pc = 0x8112 ∧ t.cpu.cyc = 4 := by decide

/-- BCC taken back cross -/
theorem test_bcc_1 :
    let t := after (.bcc 0xFC) (small (cpu 0x00 0x00 0x00 0xFD 0x24 0x8100) [])
    t.cpu.pc = 0x80FE ∧ t.cpu.cyc = 4 := by decide

/-- BCS taken, opcode on other page -/
theorem test_bcs_1 :
    let t := after (.bcs 0x00) (small (cpu 0x00 0x00 0x00 0xFD 0x25 0x80FE) [])
    t.cpu.cyc = 3 ∧ t.cpu.p = 0x25 := by decide

/-- BCS taken to own page end -/
theorem test_bcs_2 :
    let t := after (.bcs 0x7F) (small (cpu 0x00 0x00 0x00 0xFD 0x25 0x807F) [])
    t.cpu.pc = 0x8100 ∧ t.cpu.cyc = 4 := by decide

/-- BMI -128 -/
theorem test_bmi_1 :
    let t := after (.bmi 0x80) (small (cpu 0x00 0x00 0x00 0xFD 0xA4 0x8080) [])
    t.cpu.pc = 0x8002 ∧ t.cpu.cyc = 3 := by decide

/-- BPL taken back to self -/
theorem test_bpl_1 :
    let t := after (.bpl 0xFE) (small (cpu 0x00 0x00 0x00 0xFD 0x24 0x8000) [])
    t.cpu.pc = 0x8000 ∧ t.cpu.cyc = 3 := by decide

/-- BVC taken -/
theorem test_bvc_1 :
    let t := after (.bvc 0x02) (small (cpu 0x00 0x00 0x00 0xFD 0x24 0x8000) [])
    t.cpu.pc = 0x8004 ∧ t.cpu.cyc = 3 := by decide

/-- BVS not taken -/
theorem test_bvs_1 :
    let t := after (.bvs 0x02) (small (cpu 0x00 0x00 0x00 0xFD 0x24 0x8000) [])
    t.cpu.cyc = 2 ∧ t.cpu.p = 0x24 := by decide

/-- BVS taken -/
theorem test_bvs_2 :
    let t := after (.bvs 0x02) (small (cpu 0x00 0x00 0x00 0xFD 0x64 0x8000) [])
    t.cpu.pc = 0x8004 ∧ t.cpu.cyc = 3 := by decide

/-- BCC not taken -/
theorem test_bcc_2 :
    let t := after (.bcc 0x7F) (small (cpu 0x00 0x00 0x00 0xFD 0x25 0x8000) [])
    t.cpu.cyc = 2 ∧ t.cpu.p = 0x25 := by decide

/-- BEQ not taken -/
theorem test_beq_2 :
    let t := after (.beq 0x7F) (small (cpu 0x00 0x00 0x00 0xFD 0x24 0x8000) [])
    t.cpu.cyc = 2 ∧ t.cpu.p = 0x24 := by decide

/-- BMI not taken -/
theorem test_bmi_2 :
    let t := after (.bmi 0x7F) (small (cpu 0x00 0x00 0x00 0xFD 0x24 0x8000) [])
    t.cpu.cyc = 2 ∧ t.cpu.p = 0x24 := by decide

/-- BPL not taken -/
theorem test_bpl_2 :
    let t := after (.bpl 0x7F) (small (cpu 0x00 0x00 0x00 0xFD 0xA4 0x8000) [])
    t.cpu.cyc = 2 ∧ t.cpu.p = 0xA4 := by decide

/-- PHA -/
theorem test_pha_1 :
    let t := after .pha (small (cpu 0x42 0x00 0x00 0xFD 0x24 0x8000) [])
    t.cpu.s = 0xFC ∧ t.wram.read 0x01FD = 0x42 := by decide

/-- PHA S=00 -/
theorem test_pha_2 :
    let t := after .pha (small (cpu 0x42 0x00 0x00 0x00 0x24 0x8000) [])
    t.cpu.s = 0xFF ∧ t.wram.read 0x0100 = 0x42 := by decide

/-- PHP -/
theorem test_php_1 :
    let t := after .php (small (cpu 0x00 0x00 0x00 0xFD 0x24 0x8000) [])
    t.cpu.s = 0xFC ∧ t.wram.read 0x01FD = 0x34 := by decide

/-- PHP all flags -/
theorem test_php_2 :
    let t := after .php (small (cpu 0x00 0x00 0x00 0xFD 0xEF 0x8000) [])
    t.cpu.s = 0xFC ∧ t.wram.read 0x01FD = 0xFF := by decide

/-- PLA -/
theorem test_pla_1 :
    let t := after .pla (small (cpu 0x00 0x00 0x00 0xFC 0x24 0x8000) [])
    t.cpu.s = 0xFD ∧ t.cpu.p = 0x26 := by decide

/-- PLA S=FF -/
theorem test_pla_2 :
    let t := after .pla (small (cpu 0x00 0x00 0x00 0xFF 0x24 0x8000) [(0x0100, 0x80)])
    t.cpu.a = 0x80 ∧ t.cpu.s = 0x00 ∧ t.cpu.p = 0xA4 := by decide

/-- PLP FF -/
theorem test_plp_1 :
    let t := after .plp (small (cpu 0x00 0x00 0x00 0xFC 0x24 0x8000) [(0x01FD, 0xFF)])
    t.cpu.s = 0xFD ∧ t.cpu.p = 0xEF := by decide

/-- PLP 00 -/
theorem test_plp_2 :
    let t := after .plp (small (cpu 0x00 0x00 0x00 0xFC 0xEF 0x8000) [])
    t.cpu.s = 0xFD ∧ t.cpu.p = 0x20 := by decide

/-- CLC -/
theorem test_clc_1 :
    let t := after .clc (small (cpu 0x00 0x00 0x00 0xFD 0xEF 0x8000) [])
    t.cpu.p = 0xEE ∧ t.cpu.cyc = 2 := by decide

/-- SEC -/
theorem test_sec_1 :
    let t := after .sec (small (cpu 0x00 0x00 0x00 0xFD 0x20 0x8000) [])
    t.cpu.p = 0x21 ∧ t.cpu.cyc = 2 := by decide

/-- CLI -/
theorem test_cli_1 :
    let t := after .cli (small (cpu 0x00 0x00 0x00 0xFD 0xEF 0x8000) [])
    t.cpu.p = 0xEB ∧ t.cpu.cyc = 2 := by decide

/-- SEI -/
theorem test_sei_1 :
    let t := after .sei (small (cpu 0x00 0x00 0x00 0xFD 0x20 0x8000) [])
    t.cpu.p = 0x24 ∧ t.cpu.cyc = 2 := by decide

/-- CLD -/
theorem test_cld_1 :
    let t := after .cld (small (cpu 0x00 0x00 0x00 0xFD 0xEF 0x8000) [])
    t.cpu.p = 0xE7 ∧ t.cpu.cyc = 2 := by decide

/-- SED -/
theorem test_sed_1 :
    let t := after .sed (small (cpu 0x00 0x00 0x00 0xFD 0x20 0x8000) [])
    t.cpu.p = 0x28 ∧ t.cpu.cyc = 2 := by decide

/-- CLV -/
theorem test_clv_1 :
    let t := after .clv (small (cpu 0x00 0x00 0x00 0xFD 0xEF 0x8000) [])
    t.cpu.p = 0xAF ∧ t.cpu.cyc = 2 := by decide

/-- NOP -/
theorem test_nop_1 :
    let t := after .nop (small (cpu 0x01 0x02 0x03 0xFD 0xEF 0x8000) [])
    t.cpu.cyc = 2 ∧ t.cpu.p = 0xEF := by decide

/-! ## Interrupts (section 2.2) -/

/-- The vectors of section 2.2, a NOP at 0x8000. -/
def polled (p : Byte) (line prev pending : Bool) : State :=
  let s := State.withRom (small (cpu 0x00 0x00 0x00 0xFD p 0x8000) [])
    [(0, 0xEA), (0x3FFB, 0x90), (0x3FFF, 0xC0)]
  { s with cpu := { s.cpu with nmiPrev := prev }, ppu := { s.ppu with nmiLine := line }
           mapper := { s.mapper with irqPending := pending } }

/-- NMI edge, I set: not masked; the status byte pushed has bit 5 set and bit 4 clear. -/
theorem test_nmi :
    let t := next (boundary (polled 0x21 true false true)) State.reset
    t.cpu.pc = 0x9000 ∧ t.cpu.p = 0x25 ∧ t.wram.read 0x01FB = 0x21 ∧ t.wram.read 0x01FD = 0x80 :=
        by decide

/-- IRQ, all flags but I. -/
theorem test_irq :
    let t := next (boundary (polled 0xEB false false true)) State.reset
    t.cpu.pc = 0xC000 ∧ t.cpu.p = 0xEF ∧ t.wram.read 0x01FB = 0xEB ∧ t.cpu.cyc = 7 := by decide

/-- IRQ, I set: masked, the NOP runs. -/
theorem test_irq_masked :
    let t := next (step (polled 0x24 false false true)) State.reset
    t.cpu.pc = 0x8001 ∧ t.cpu.cyc = 1 ∧ t.ppu.dot = 3 := by decide

/-- NMI level held: no second edge. -/
theorem test_nmi_held : pollResult (polled 0x24 true true false) = .nothing := by decide

/-- An unrecognised opcode halts; the Picture Generator goes on (P6 of Part 3). -/
theorem test_unrecognized :
    let t := next (step (State.withRom (small (cpu 0x01 0x00 0x00 0xFD 0x24 0x8000) []) [(0,
        0x02)])) State.reset
    t.cpu.haltInfo = some ⟨.unrecognizedOpcode, 0x8000, 0x02, none⟩ ∧ t.cpu.pc = 0x8000 ∧
        t.ppu.dot = 3 := by
  decide

/-- `withFetchWord`: the very next step runs the word, here `LDA #$80`. -/
theorem test_withFetchWord :
    let t := next (step (State.reset.withFetchWord 16 0x80A9)) State.reset
    t.cpu.a = 0x80 ∧ t.cpu.p = 0xA4 ∧ t.cpu.cyc = 1 := by decide

theorem test_decodeTableWord : decodeTableWord 16 0x80A9 = some (.ldaImm 0x80) ∧
    decodeTableWord 8 0x8D = some (.staAbs 0) ∧ decodeTableWord 8 0x02 = none := by decide

/-! ## Ports (section 2.3) -/

/-- Port writes in order. -/
def ports (l : List (Nat × Byte)) (s : State) : State :=
    l.foldl (fun u w => ppuRegWrite w.1 w.2 u) s

theorem test_scroll_ports :
    let t := ports [(5, 0x7D), (5, 0x5E), (0, 0x03)] State.reset
    t.ppu.t = 0x6D6F ∧ t.ppu.fineX = 5 ∧ t.ppu.w = false := by decide

theorem test_address_ports :
    let t := ports [(5, 0x7D), (5, 0x5E), (0, 0x03), (6, 0xFF), (6, 0x08)] State.reset
    t.ppu.t = 0x3F08 ∧ t.ppu.v = 0x3F08 := by decide

/-- increment 32, wrap of v: the cell is palette cell 0. -/
theorem test_data_port_wrap :
    let s := State.reset.mapPpu fun p => { p with v := 0x7FF0, ctrl := 0x04 }
    let t := dataWrite 0x55 s
    t.ppu.v = 0x0010 ∧ t.ppu.paletteAt 0 = 0x15 := by decide

theorem test_status_read :
    let s := State.reset.mapPpu fun p => { p with vblank := true, spr0hit := true, w := true }
    (busRead 0x3FFA s).1 = 0xC0 ∧ (busRead 0x3FFA s).2.ppu.vblank = false ∧
      (busRead 0x3FFA s).2.ppu.spr0hit = true := by decide

theorem test_nametable_cells : ntCell .horizontal 0x2800 = (false, 1024) ∧
    ntCell .vertical 0x3EFF = (false, 1791) ∧ ntCell .oneScreenLow 0x3EFF = (false, 767) ∧
    ntCell .fourScreen 0x3EFF = (true, 1791) := by decide

/-! ## The Picture Generator (sections 2.4 to 2.6) -/

/-- The reset machine at a position of the timing grid. -/
def dotAt (line : Int) (dot : Nat) (mask ctrl : Byte) : State :=
  State.reset.mapPpu fun p => { p with scanline := line, dot := dot, mask := mask, ctrl := ctrl }

theorem test_scroll_steps : incHorizontal 0x2BDF = 0x2FC0 ∧ incHorizontal 0x041F = 0 ∧
    incVertical 0x73A0 = 0x0800 ∧ incVertical 0x73E0 = 0 ∧ incVertical 0x7FFF = 0x0C1F ∧
    copyHorizontal 0x7FFF 0 = 0x7BE0 ∧ copyVertical 0x7FFF 0 = 0x041F := by decide

theorem test_fetch_addresses : attributeAddr 0x2482 = 0x27C8 ∧ attributeShift 0x2482 = 2 ∧
    nametableAddr 0x7FFF = 0x2FFF ∧ spriteRowAddr 0x20 0x13 11 = 0x1133 ∧
    spriteRowAddr 0x28 0xFE 15 = 0x0FF7 := by decide

theorem test_pattern_address :
    (State.reset.ppu.bgPatternAddr = 0) ∧
    ({ State.reset.ppu with ctrl := 0x10, ntByte := 0xA5, v := 0x5000 } : Ppu).bgPatternAddr =
        0x1A55 := by
  decide

theorem test_vblank_set : (ppuStep (dotAt 241 1 0x00 0x80)).ppu.vblank = true ∧
    (ppuStep (dotAt 241 1 0x00 0x80)).ppu.nmiLine = true ∧
    (ppuStep (dotAt 241 1 0x00 0x00)).ppu.nmiLine = false := by decide

theorem test_odd_skip : (ppuStep (dotAt 260 340 0x08 0x00)).ppu.dot = 1 ∧
    (ppuStep (dotAt 260 340 0x00 0x00)).ppu.dot = 0 := by decide

/-- Ten entries on a line: eight are kept, in order, and the overflow flag is set. -/
def tenSprites : Memory := [
  (0, 50), (4, 0xF0), (8, 0xF0), (12, 50), (16, 0xF0), (20, 0xF0), (24, 50), (28, 0xF0), (32,
      0xF0), (36, 50),
  (40, 0xF0), (44, 0xF0), (48, 50), (52, 0xF0), (56, 0xF0), (60, 50), (64, 0xF0), (68, 0xF0), (72,
      50),
  (76, 0xF0), (80, 0xF0), (84, 50), (88, 0xF0), (92, 0xF0), (96, 50), (100, 0xF0), (104, 0xF0),
      (108, 50)]

theorem test_sprite_evaluation :
    let p := { State.reset.ppu with oam := tenSprites }
    (p.evaluateSprites 57).secCount = 8 ∧ (p.evaluateSprites 57).sprovf = true ∧
    (p.evaluateSprites 57).spr0cand = true ∧ (p.evaluateSprites 58).secCount = 0 := by decide

theorem test_priority : paletteIndex (0, 2) ⟨0, 0, false, none⟩ = 0 ∧
    paletteIndex (3, 2) ⟨0, 0, false, none⟩ = 0x0B ∧ paletteIndex (0, 1) ⟨2, 3, true, some 0⟩ =
        0x1E ∧
    paletteIndex (1, 0) ⟨1, 0, false, some 0⟩ = 0x11 ∧ paletteIndex (1, 1) ⟨3, 1, true, some 0⟩ =
        0x05 := by
  decide

/-! ## The Mapper (sections 2.7 to 2.9) and the router (2.10) -/

theorem test_reduce : reduce 13 8 = some 5 ∧ reduce 6 3 = some 2 ∧ reduce 3 3 = none ∧
    reduce 7 5 = none ∧
    reduce 0x45 64 = some 5 ∧ reduce 9 1 = some 0 := by decide

/-- A machine of a banked variant. -/
def banked (v : Variant) (prgBanks chrBanks : Nat) : State :=
  State.powerOn { Config.blank with variant := v, prgBanks16 := prgBanks, chrBanks8 := chrBanks } Launch.blank

/-- Bus writes of bytes at given Processor steps. -/
def stores (l : List (Nat × Addr × Byte)) (s : State) : State := l.foldl storeAt s

/-- Five writes of the low bits of `v` to `a`, from step `n` on. -/
def w5 (n : Nat) (a : Addr) (v : Nat) : List (Nat × Addr × Byte) :=
  (List.range 5).map fun k => (n + 4 * k, a, BitVec.ofNat 8 (v / 2 ^ k % 2))

theorem test_serial_banks :
    let t := stores (w5 10 0x8000 0x0A ++ w5 40 0xE000 0x05) (banked .serial 8 2)
    prgOffset t.cfg t.mapper 0 = 0 ∧ prgOffset t.cfg t.mapper 0x4000 = 5 * 16384 ∧
    t.mapper.mirror = .vertical ∧ t.mapper.serial.control = 0x0A := by decide

theorem test_serial_reset :
    let t := stores [(10, 0x8000, 0x01), (14, 0x8000, 0x01), (18, 0x9234, 0xFF), (22, 0xA000, 0x01)]
      (banked .serial 8 2)
    t.mapper.serial.sr = 0x10 ∧ t.mapper.serial.srCount = 1 ∧ t.mapper.serial.control = 0x0C :=
        by decide

theorem test_serial_fault :
    let t := stores (w5 10 0xE000 0x03) (banked .serial 3 1)
    t.cpu.haltInfo = some ⟨.mapperFault, 0xE000, 0x00, some 3⟩ ∧ t.mapper.serial.prgBank = 0 :=
        by decide

theorem test_scanline_banks :
    let t := stores [(0, 0x8000, 0x06), (0, 0x8001, 0x04), (0, 0x8000, 0x07), (0, 0x8001, 0x05),
      (0, 0x8000, 0x00), (0, 0x8001, 0x09), (0, 0x8000, 0x45)] (banked .scanline 8 4)
    [0, 8192, 16384, 24576].map (prgOffset t.cfg t.mapper) = [14 * 8192, 5 * 8192, 4 * 8192,
        15 * 8192] ∧
    [0, 1024].map (chrOffset t.cfg t.mapper) = [8 * 1024, 9 * 1024] := by decide

theorem test_counter :
    let m := (banked .scanline 2 1).mapper
    let c := (banked .scanline 2 1).cfg
    let n :=
        iterate (advanceCounter c) 4 { m with scan := { m.scan with irqLatch := 3, irqEnable := true } }
    n.scan.irqCounter = 0 ∧ n.irqPending = true := by decide

theorem test_router :
    let s := { State.reset with wram := [(0x0123, 0x5A)] }
    (busRead 0x1923 s).1 = 0x5A ∧ (busRead 0x4020 s).1 = 0x00 ∧
    (busWrite 0x1FFF 0x77 s).wram.read 0x07FF = 0x77 ∧
    (busRead 0x6000 (busWrite 0x6000 0x99 s)).1 = 0x99 := by decide

theorem test_object_dma :
    let s :=
        { State.reset with wram := [(0x0200, 0x11), (0x02FF, 0x22)] }.mapPpu fun p => { p with oamAddr := 7 }
    let t := busWrite 0x4014 0x02 s
    t.ppu.oam.read 7 = 0x11 ∧ t.ppu.oam.read 6 = 0x22 ∧ t.ppu.oamAddr = 7 := by decide

/-! ## Witnesses: for every statement with hypotheses, data that meet all of them together -/

/-- A quiet Processor at 0x8000 with nothing in work RAM. -/
def plain : State := small (cpu 0x00 0x00 0x00 0xFD 0x24 0x8000) []

/-- What `f` sees in the next state of an outcome that has one. -/
def view {α : Type} (f : State → α) (o : Out) : Option α :=
  match o with
  | .next t => some (f t)
  | .fault _ => none
  | .refused _ => none

theorem next_of_view {α : Type} {f : State → α} {o : Out} {a : α} (h : view f o = some a) :
    ∃ t, o = .next t ∧ f t = a := by
  cases o with
  | next t => exact ⟨t, rfl, Option.some.inj h⟩
  | fault r => cases h
  | refused r => cases h

theorem witness_EncodeDecode : decode [0xA9, 0x80, 0x00] = .ok (.ldaImm 0x80, [0x00]) ∧
    decode [0xFE, 0xFF, 0xFF] = .ok (.incAbx 0xFFFF, []) := ⟨rfl, rfl⟩

/-- An immediate operand, and one of each of the other eight forms. -/
theorem witness_OperandResolution : (.imm 0xFF : Operand) = .imm 0xFF ∧
    ∀ o ∈ [(.zp 0xFF : Operand), .zpx 0xFF, .zpy 0xFF, .abs 0xFFFF, .abx 0xFFFF, .aby 0xFFFF, .izx 0xFF,
      .izy 0xFF], ∀ b : Byte, o ≠ .imm b := by
  refine ⟨rfl, fun o ho b h => ?_⟩
  subst h
  simp at ho

theorem witness_StoresToRam : plain.cpu.halted = false ∧
    (∀ n ∈ ([0x0000, 0x1FFF, 0x6000, 0x7FFF] : List Nat),
      (∃ f ∈ staForms 0x00 (BitVec.ofNat 16 n), f.operand = .abs (BitVec.ofNat 16 n) ∧
          isRam (resolve f.operand plain).1) ∧
      (∃ f ∈ stxForms 0x00 (BitVec.ofNat 16 n), f.operand = .abs (BitVec.ofNat 16 n) ∧
          isRam (resolve f.operand plain).1) ∧
      ∃ f ∈ styForms 0x00 (BitVec.ofNat 16 n), f.operand = .abs (BitVec.ofNat 16 n) ∧
          isRam (resolve f.operand plain).1) := by decide +kernel

theorem witness_StoresElsewhere : plain.cpu.halted = false ∧
    (∀ n ∈ ([0x2000, 0x3FFF, 0x4000, 0x4014, 0x5FFF, 0x8000, 0xFFFF] : List Nat),
      (∃ f ∈ staForms 0x00 (BitVec.ofNat 16 n), ¬ isRam (resolve f.operand plain).1 ∧
        (busWrite (resolve f.operand plain).1 plain.cpu.a (resolve f.operand plain).2).cpu.halted = false) ∧
      (∃ f ∈ stxForms 0x00 (BitVec.ofNat 16 n), ¬ isRam (resolve f.operand plain).1 ∧
        (busWrite (resolve f.operand plain).1 plain.cpu.x (resolve f.operand plain).2).cpu.halted = false) ∧
      ∃ f ∈ styForms 0x00 (BitVec.ofNat 16 n), ¬ isRam (resolve f.operand plain).1 ∧
        (busWrite (resolve f.operand plain).1 plain.cpu.y (resolve f.operand plain).2).cpu.halted = false) := by
  decide +kernel

/-- Every table entry of the memory shifts has an absolute form at `w` that meets the hypotheses. -/
theorem witness_ShiftRam : plain.cpu.halted = false ∧ ∀ n ∈ ([0x0000, 0x1FFF, 0x6000, 0x7FFF] :
    List Nat),
    ∀ l ∈ [aslForms 0x00 (BitVec.ofNat 16 n), lsrForms 0x00 (BitVec.ofNat 16 n),
        rolForms 0x00 (BitVec.ofNat 16 n), rorForms 0x00 (BitVec.ofNat 16 n)],
      ∃ f ∈ l, f.operand = .abs (BitVec.ofNat 16 n) ∧ isRam (resolve f.operand plain).1 ∧
        plain.peek (resolve f.operand plain).1 = some 0x00 := by decide +kernel

theorem witness_IncDecRam : plain.cpu.halted = false ∧ ∀ n ∈ ([0x0000, 0x1FFF, 0x6000, 0x7FFF] :
    List Nat),
    ∀ l ∈ [incForms 0x00 (BitVec.ofNat 16 n), decForms 0x00 (BitVec.ofNat 16 n)], ∃ f ∈ l,
        f.operand = .abs (BitVec.ofNat 16 n) ∧
      isRam (resolve f.operand plain).1 ∧ plain.peek (resolve f.operand plain).1 = some 0x00 :=
          by decide +kernel

theorem witness_RmwElsewhere : plain.cpu.halted = false ∧
    (∀ n ∈ ([0x2000, 0x3FFF, 0x4014, 0x4018, 0x5FFF, 0x8000, 0xFFFF] : List Nat),
      (∀ g ∈ shiftTable 0x00 (BitVec.ofNat 16 n), ∃ f ∈ g.1, ¬ isRam (resolve f.operand plain).1 ∧
        (busWrite (resolve f.operand plain).1 (shiftResult g.2 f.operand plain).1
          (shiftBefore g.2 f.operand plain)).cpu.halted = false) ∧
      ∀ g ∈ stepTable 0x00 (BitVec.ofNat 16 n), ∃ f ∈ g.1, ¬ isRam (resolve f.operand plain).1 ∧
        (busWrite (resolve f.operand plain).1 (g.2 (readOperand f.operand plain).1)
          (readOperand f.operand plain).2).cpu.halted = false) := by decide +kernel

/-- A Serial variant whose next shift write would commit bank 3 of a 3-bank image. -/
def faulting : State :=
  let s := banked .serial 3 0
  { s with mapper := { s.mapper with serial := { s.mapper.serial with sr := 6, srCount := 4 } } }

theorem witness_MapperFault : faulting.cpu.halted = false ∧
    (∀ g ∈ storeTable 0x00 0xE000 faulting, ∃ f ∈ g.1,
      (busWrite (resolve f.operand faulting).1 g.2 (resolve f.operand faulting).2).cpu.halted =
          true) ∧
    (∀ g ∈ shiftTable 0x00 0xE000, ∃ f ∈ g.1,
      (busWrite (resolve f.operand faulting).1 (shiftResult g.2 f.operand faulting).1
        (shiftBefore g.2 f.operand faulting)).cpu.halted = true) ∧
    ∀ g ∈ stepTable 0x00 0xE000, ∃ f ∈ g.1,
      f.opcode =
          0xCE ∨ (busWrite (resolve f.operand faulting).1 (g.2 (readOperand f.operand faulting).1)
        (readOperand f.operand faulting).2).cpu.halted = true := by decide +kernel

/-- DEC of the byte 0x01 of the image, the same way. -/
theorem witness_MapperFault_dec :
    let s := State.withRom faulting [(0xA000, 0x01)]
    s.cpu.halted = false ∧ ∃ f ∈ decForms 0x00 0xE000,
      (busWrite (resolve f.operand s).1 ((readOperand f.operand s).1 - 1)
        (readOperand f.operand s).2).cpu.halted = true := by decide +kernel

theorem witness_Jumps :
    let s := small (cpu 0x00 0x00 0x00 0xFD 0x24 0x8000) [(0x0200, 0x90), (0x0300, 0x40)]
    s.peek 0x02FF = some 0x00 ∧ s.peek (samePageNext 0x02FF) = some 0x90 := by decide

theorem witness_ResetVectors : Config.blank.wellFormed = true ∧
    (banked .serial 16 16).cfg.wellFormed = true ∧ (banked .scanline 128 32).cfg.wellFormed =
        true := by decide

theorem witness_AfterReset : ∃ t, stepN 7 State.reset = .next t ∧ t.cpu.cyc = 0 :=
  next_of_view (f := fun t => t.cpu.cyc) (by decide +kernel)

theorem witness_RouterMirrors :
    (∀ p ∈ ([(0x0000, 0x1800), (0x07FF, 0x1FFF), (0x0800, 0x0800)] : List (Nat × Nat)),
      (BitVec.ofNat 16 p.1).toNat < 0x2000 ∧ (BitVec.ofNat 16 p.2).toNat < 0x2000 ∧
      (BitVec.ofNat 16 p.1).toNat % 2048 = (BitVec.ofNat 16 p.2).toNat % 2048) ∧
    (∀ p ∈ ([(0x2000, 0x3FF8), (0x2007, 0x3FFF)] : List (Nat × Nat)),
      0x2000 ≤ (BitVec.ofNat 16 p.1).toNat ∧ (BitVec.ofNat 16 p.1).toNat < 0x4000 ∧
      0x2000 ≤ (BitVec.ofNat 16 p.2).toNat ∧ (BitVec.ofNat 16 p.2).toNat < 0x4000 ∧
      (BitVec.ofNat 16 p.1).toNat % 8 = (BitVec.ofNat 16 p.2).toNat % 8) ∧
    (∀ n ∈ ([0x6000, 0x7FFF] : List Nat), 0x6000 ≤ (BitVec.ofNat 16 n).toNat ∧
        (BitVec.ofNat 16 n).toNat < 0x8000) ∧
    ∀ n ∈ ([0x8000, 0xFFFF] : List Nat), 0x8000 ≤ (BitVec.ofNat 16 n).toNat := by decide

theorem witness_RouterEdges :
    (∀ n ∈ ([0x4018, 0x401F, 0x4020, 0x5FFF] : List Nat), 0x4018 ≤ (BitVec.ofNat 16 n).toNat ∧
        (BitVec.ofNat 16 n).toNat < 0x6000) ∧
    (0x4014 : Addr).toNat = 0x4014 ∧
    (∀ p ∈ [0, 1, 3, 5, 6], isPort (BitVec.ofNat 16 (0x2000 + p)) p ∧
        isPort (BitVec.ofNat 16 (0x3FF8 + p)) p) ∧
    isPort 0x2002 2 ∧ isPort 0x3FFA 2 ∧ (∀ n ∈ ([0x4000, 0x4013, 0x4015, 0x4017] : List Nat),
        isIo (BitVec.ofNat 16 n)) ∧
    ({ plain with env := { plain.env with ioAnswers := [0x05] } } : State).env.ioAnswers =
        0x05 :: [] := by decide

/-- A NOP in work RAM at 0x0200, at a boundary. -/
def runsNop (op : Byte) : State := small (cpu 0x00 0x00 0x00 0xFD 0x24 0x0200) [(0x0200, op)]

theorem witness_StepRunsDecoded : (runsNop 0xEA).cpu.halted = false ∧ (runsNop 0xEA).cpu.cyc = 0 ∧
    pollResult (countStep (runsNop 0xEA)) = .nothing ∧ Instr.nop.wellFormed = true ∧
    decode [0xEA] = .ok (.nop, []) ∧
    (∀ k b, ([0xEA] : List Byte)[k]? = some b →
      (runsNop 0xEA).peek ((runsNop 0xEA).cpu.pc + BitVec.ofNat 16 k) = some b) := by
  refine ⟨by decide, by decide, by decide, by decide, rfl, fun k b h => ?_⟩
  match k, h with
  | 0, h => cases h; decide

theorem witness_StepRunsDecoded_fetched :
    ∃ s1, fetch (afterPoll (countStep (runsNop 0xEA))) = (.instr .nop, s1) := ⟨_, rfl⟩

theorem witness_TicksWithoutBoundary :
    (State.reset.cpu.halted = false ∧ 0 ≤ State.reset.cpu.cyc ∧ 7 ≤ State.reset.cpu.cyc) ∧
    ({ plain with cpu := { plain.cpu with halted := true } } : State).cpu.halted = true := by decide

theorem witness_CostIsSteps : (runsNop 0xEA).cpu.halted = false ∧ (runsNop 0xEA).cpu.cyc = 0 ∧
    ∃ u, boundary (countStep (runsNop 0xEA)) = .next u ∧ u.cpu.halted = false :=
  ⟨by decide, by decide, next_of_view (f := fun t => t.cpu.halted) (by decide +kernel)⟩

theorem witness_OnlyTwoHalts :
    ((runsNop 0x02).cpu.halted = false ∧ ∃ t, step (runsNop 0x02) = .next t ∧ t.cpu.halted = true) ∧
    (({ plain with cpu := { plain.cpu with halted := true } } : State).cpu.halted = true) :=
  ⟨⟨by decide, next_of_view (f := fun t => t.cpu.halted) (by decide +kernel)⟩, by decide⟩

/-- `STA $E000` that breaks the bank check, run by a step. -/
theorem witness_OnlyTwoHalts_mapper :
    let s := { faulting with cpu := cpu 0x00 0x00 0x00 0xFD 0x24 0x0200
                             wram := [(0x0200, 0x8D), (0x0202, 0xE0)] }
    s.cpu.halted = false ∧ ∃ t, step s = .next t ∧ t.cpu.halted = true :=
  ⟨by decide, next_of_view (f := fun t => t.cpu.halted) (by decide +kernel)⟩

theorem witness_UnrecognizedHalts : ∀ op ∈ [(0x02 : Byte), 0x80, 0xFF], pollResult (runsNop op) =
    .nothing ∧
    (busRead (runsNop op).cpu.pc (afterPoll (runsNop op))).1 = op ∧
        op.toNat ∈ unrecognizedBytes := by decide

theorem witness_Interrupts :
    ((polled 0x24 true false false).ppu.nmiLine = true ∧
        (polled 0x24 true false false).cpu.nmiPrev = false) ∧
    (¬ ((polled 0x20 true true true).ppu.nmiLine = true ∧
        (polled 0x20 true true true).cpu.nmiPrev = false) ∧
      (polled 0x20 true true true).cpu.p.getLsbD 2 = false ∧
      ((polled 0x20 true true true).mapper.irqPending || apuLevel (polled 0x20 true true true)) =
          true) ∧
    (¬ ((polled 0x24 false true true).ppu.nmiLine = true ∧
        (polled 0x24 false true true).cpu.nmiPrev = false) ∧
      (polled 0x24 false true true).cpu.p.getLsbD 2 = true) := by decide

/-- The same with the audio-frame line settled: raised, and not raised with I clear. -/
theorem witness_Interrupts_apu :
    (∀ l ∈ [true, false],
      let s := { polled 0x20 false false false with
        env := { ioAnswers := [], ioDraws := 0, apuLevels := [l], apuDraws := 0 } }
      ¬ (s.ppu.nmiLine = true ∧ s.cpu.nmiPrev = false) ∧ s.cpu.p.getLsbD 2 = false ∧
      (s.mapper.irqPending || apuLevel s) = l ∧ s.env.apuLevels = l :: []) := by decide

theorem witness_Interrupts_line : (∃ t, boundary (polled 0x24 true true false) = .next t) ∧
    (State.reset.cpu.halted = false ∧ State.reset.cpu.cyc ≠ 0 ∧ ∃ t, step State.reset = .next t) ∧
    (polled 0x24 true true false).cpu.nmiPrev = true :=
  have h : ∀ o : Out, (view (fun _ => ()) o).isSome = true → ∃ t, o = .next t := fun o ho => by
    cases o with
    | next t => exact ⟨t, rfl⟩
    | fault r => cases ho
    | refused r => cases ho
  ⟨h _ (by decide +kernel), ⟨by decide, by decide, h _ (by decide +kernel)⟩, by decide⟩

theorem witness_ReturnsUndoCalls : StatusOk plain ∧ plain.cpu.s = 0xFD ∧
    StatusOk (small (cpu 0x00 0x00 0x00 0x00 0xEF 0x80FE) []) := by decide

theorem witness_CounterAdvance :
    (dotAt 0 0 0 0).ppu.dot < 340 ∧ (dotAt 0 339 0 0).ppu.dot < 340 ∧
    ((dotAt (-1) 340 0 0).ppu.dot = 340 ∧ (dotAt (-1) 340 0 0).ppu.scanline ≠ 260) ∧
    ((dotAt 259 340 0 0).ppu.dot = 340 ∧ (dotAt 259 340 0 0).ppu.scanline ≠ 260) ∧
    ((dotAt 260 340 0x10 0).ppu.dot = 340 ∧ (dotAt 260 340 0x10 0).ppu.scanline = 260 ∧
      (dotAt 260 340 0x10 0).ppu.odd = false) := by decide

theorem witness_FlagEvents : ((dotAt (-1) 1 0 0).ppu.scanline = -1 ∧ (dotAt (-1) 1 0 0).ppu.dot =
    1) ∧
    (∀ q ∈ [((240 : Int), 1), (241, 0), (241, 2), (260, 340)],
        240 ≤ (dotAt q.1 q.2 0 0).ppu.scanline ∧
      ¬ ((dotAt q.1 q.2 0 0).ppu.scanline = 241 ∧ (dotAt q.1 q.2 0 0).ppu.dot = 1)) := by decide

theorem witness_FrameLaw : ∀ q ∈ [((0x00 : Byte), 0), (0x08, 1), (0x10, 1)],
    (dotAt 241 1 q.1 0).ppu.scanline = 241 ∧ (dotAt 241 1 q.1 0).ppu.dot = 1 ∧
    q.2 = (if (dotAt 241 1 q.1 0).ppu.odd = false ∧ ((dotAt 241 1 q.1 0).ppu.mask.getLsbD 3 = true ∨
      (dotAt 241 1 q.1 0).ppu.mask.getLsbD 4 = true) then 1 else 0) := by decide

theorem witness_ScrollAddress :
    (∀ q ∈ [((0 : Int), 8), (239, 248), (-1, 256), (0, 328), (239, 336)],
      rendersLine (dotAt q.1 q.2 0x08 0) ∧ fetchDot (dotAt q.1 q.2 0x08 0).ppu.dot ∧
      (dotAt q.1 q.2 0x08 0).ppu.dot % 8 = 0 ∧
      ((dotAt q.1 q.2 0x08 0).ppu.dot ≠ 256 ∨ (dotAt q.1 q.2 0x08 0).ppu.scanline = -1)) ∧
    (∀ l ∈ [(0 : Int), 239], rendersLine (dotAt l 256 0x08 0) ∧ (dotAt l 256 0x08 0).ppu.dot = 256 ∧
      0 ≤ (dotAt l 256 0x08 0).ppu.scanline) ∧
    (∀ l ∈ [(-1 : Int), 239], rendersLine (dotAt l 257 0x10 0) ∧ (dotAt l 257 0x10 0).ppu.dot =
        257) ∧
    (∀ d ∈ [280, 304], rendersLine (dotAt (-1) d 0x08 0) ∧ (dotAt (-1) d 0x08 0).ppu.scanline = -1 ∧
      280 ≤ (dotAt (-1) d 0x08 0).ppu.dot ∧ (dotAt (-1) d 0x08 0).ppu.dot ≤ 304) ∧
    ¬ rendersLine (dotAt 240 8 0x08 0) ∧ ¬ rendersLine (dotAt 0 8 0x00 0) ∧
    (¬ (fetchDot (dotAt (-1) 305 0x08 0).ppu.dot ∧ (dotAt (-1) 305 0x08 0).ppu.dot % 8 = 0) ∧
      (dotAt (-1) 305 0x08 0).ppu.dot ≠ 257 ∧ ¬ ((dotAt (-1) 305 0x08 0).ppu.scanline = -1 ∧
      280 ≤ (dotAt (-1) 305 0x08 0).ppu.dot ∧ (dotAt (-1) 305 0x08 0).ppu.dot ≤ 304)) := by decide

theorem witness_BackgroundPipeline :
    (∀ d ∈ [1, 3, 5, 7, 8, 256, 321, 336], rendersLine (dotAt (-1) d 0x08 0) ∧
      fetchDot (dotAt (-1) d 0x08 0).ppu.dot) ∧
    (∀ d ∈ [0, 257, 320, 337], ¬ fetchDot (dotAt 239 d 0x08 0).ppu.dot) ∧
    ¬ rendersLine (dotAt 240 1 0x08 0) := by decide

/-- Object entry 0 on lines 0 to 7. -/
def oneSprite (line : Int) (dot : Nat) (mask : Byte) : State :=
  (dotAt line dot mask 0).mapPpu fun p => { p with oam := [(1, 0x12), (3, 0x20)] }

theorem witness_SpriteEvaluation :
    (∀ l ∈ [(-1 : Int), 0, 239], rendersLine (oneSprite l 256 0x10) ∧
        (oneSprite l 256 0x10).ppu.dot = 256) ∧
    (oneSprite 0 255 0x10).ppu.dot ≠ 256 ∧ ¬ rendersLine (oneSprite 240 256 0x10) ∧
    ¬ ((oneSprite 0 255 0x10).ppu.scanline = -1 ∧ (oneSprite 0 255 0x10).ppu.dot = 1) ∧
    (oneSprite (-1) 256 0x10).ppu.scanline = -1 ∧
    (0 ∈ nextSprites (oneSprite 7 256 0x10) ∧ (oneSprite 7 256 0x10).ppu.scanline ≤ 238) ∧
    (coversNext ((oneSprite 238 256 0x10).mapPpu fun p => { p with oam := [(0, 238)] }) 0 =
        true) := by decide +kernel

theorem witness_SpriteFetch :
    let s := (dotAt 10 257 0x10 0).mapPpu fun p => { p with secCount := 8 }
    rendersLine s ∧ s.ppu.dot = 257 ∧ (7 : Fin 8).val < s.ppu.secCount ∧
    rendersLine (dotAt (-1) 257 0x10 0) ∧ (dotAt (-1) 257 0x10 0).ppu.dot = 257 ∧
      (dotAt (-1) 257 0x10 0).ppu.secCount ≤ (0 : Fin 8).val := by decide

theorem witness_PixelWritten :
    (∀ q ∈ [((0 : Int), 1), (239, 256)], pixelDot (dotAt q.1 q.2 0x08 0) ∧
      (dotAt q.1 q.2 0x08 0).ppu.mask.getLsbD 3 = true) ∧
    (pixelDot (dotAt 0 1 0 0) ∧ (dotAt 0 1 0 0).ppu.mask.getLsbD 3 = false ∧
      (dotAt 0 1 0 0).ppu.mask.getLsbD 4 = false) ∧
    ((1 : Nat) ≠ (dotAt 0 1 0 0).ppu.scanline.toNat ∨ (0 : Nat) ≠ (dotAt 0 1 0 0).ppu.dot - 1) ∧
    (∀ q ∈ [((-1 : Int), 1), (0, 0), (0, 257), (240, 1)], ¬ pixelDot (dotAt q.1 q.2 0x08 0)) ∧
    ¬ ((dotAt 0 0 0x08 0).ppu.scanline = -1 ∧ (dotAt 0 0 0x08 0).ppu.dot = 1) ∧
    (dotAt 0 0 0x08 0).ppu.dot ≠ 257 := by decide

theorem witness_ScanlineClock : ∀ l ∈ [(-1 : Int), 238],
    let s := (dotAt l 258 0x18 0x08).mapPpu fun p => { p with a12Prev := true }
    s.ppu.mask.getLsbD 3 = true ∧ s.ppu.ctrl.getLsbD 4 = false ∧ s.ppu.ctrl.getLsbD 3 = true ∧
    s.ppu.ctrl.getLsbD 5 = false ∧ -1 ≤ s.ppu.scanline ∧ s.ppu.scanline ≤ 238 ∧ s.ppu.dot = 258 ∧
    s.ppu.a12Prev = true := by decide

theorem witness_CounterPeriod : Config.blank.variant ≠ .scanline ∧
    (banked .scanline 1 0).cfg.variant = .scanline ∧
    ((banked .scanline 1 0).mapper.scan.irqCounter =
        0 ∨ (banked .scanline 1 0).mapper.scan.irqReload = true) ∧
    (∀ k ∈ [(1 : Byte), 0xFF],
      let m := { (banked .scanline 1 0).mapper with
        scan := { (banked .scanline 1 0).mapper.scan with irqCounter := k } }
      m.scan.irqCounter ≠ 0 ∧ m.scan.irqReload = false) := by decide

theorem witness_Ports : (∀ p ∈ [0, 1, 2, 3, 4, 5, 6], isPort (BitVec.ofNat 16 (0x2000 + p)) p ∧
      isPort (BitVec.ofNat 16 (0x3FF8 + p)) p) ∧
    plain.ppu.w = false ∧ (plain.mapPpu fun p => { p with w := true }).ppu.w = true := by decide

/-- The data port's hypotheses at the ends of each range, with pattern RAM and with pattern ROM,
    and with
two nametables and with four. -/
theorem witness_DataPort : isPort 0x2007 7 ∧ isPort 0x3FFF 7 ∧
    (∀ a ∈ [0x0000, 0x1FFF, 0x2000, 0x3EFF, 0x3F00, 0x3FFF],
      (BitVec.ofNat 14 a).toNat =
          (plain.mapPpu fun p => { p with v := BitVec.ofNat 15 (0x4000 + a) }).ppu.v.toNat
        % 16384) ∧
    plain.cfg.chrBanks8 = 0 ∧ 0 < (banked .serial 1 1).cfg.chrBanks8 ∧
    nametableAt plain 0x2000 < 2 ∧ nametableAt plain 0x3EFF < 2 ∧
    2 ≤ nametableAt (plain.setMapper { plain.mapper with mirror := .fourScreen }) 0x2800 ∧
    2 ≤ nametableAt (plain.setMapper { plain.mapper with mirror := .fourScreen }) 0x3EFF :=
        by decide

theorem witness_ObjectDma : ∀ page ∈ [(0x00 : Byte), 0x1F, 0x60, 0xFF],
    page.toNat < 0x20 ∨ 0x60 ≤ page.toNat := by decide

/-- The Serial variant with a last write at step 10, four bits shifted in. -/
def serialAt (n count : Nat) : State :=
  let s := banked .serial 8 2
  { s with stepCount := n
           mapper :=
               { s.mapper with serial := { s.mapper.serial with srCount := count, lastWrite := some 10 } } }

theorem witness_SerialWrites : (serialAt 11 0).cfg.variant = .serial ∧
    (serialAt 11 0).cpu.halted = false ∧
    0x8000 ≤ (0x8000 : Addr).toNat ∧ 0x8000 ≤ (0xFFFF : Addr).toNat ∧
    (∃ k, (serialAt 11 0).mapper.serial.lastWrite = some k ∧
      (serialAt 11 0).stepCount < k + (serialAt 11 0).cfg.serialMinSpacing) ∧
    (0x80 : Byte).getLsbD 7 = true ∧ (0x7F : Byte).getLsbD 7 = false ∧
    (serialAt 12 3).mapper.serial.srCount < 4 := by
  refine ⟨by decide, by decide, by decide, by decide, ⟨10, by decide, by decide⟩, by decide,
      by decide, by decide⟩

theorem witness_SerialWrites_later : ¬ tooSoon (serialAt 12 3) ∧ ¬ tooSoon (banked .serial 8 2) :=
    by
  constructor <;> rintro ⟨k, hk, hlt⟩
  · cases hk; revert hlt; decide
  · cases hk

/-- Five writes two steps apart from step 0 of a machine just reset. -/
theorem witness_SerialWrites_five : (banked .serial 8 2).mapper.serial.srCount = 0 ∧
    0 + (banked .serial 8 2).cfg.serialMinSpacing ≤ 2 ∧
        2 + (banked .serial 8 2).cfg.serialMinSpacing ≤ 4 ∧
    4 + (banked .serial 8 2).cfg.serialMinSpacing ≤ 6 ∧
        6 + (banked .serial 8 2).cfg.serialMinSpacing ≤ 8 ∧
    (∀ n ∈ ([0x8000, 0x9FFF, 0xA000, 0xBFFF, 0xC000, 0xDFFF, 0xE000, 0xFFFF] : List Nat),
      let t := [(0, (0x8000 : Addr), (0x01 : Byte)), (2, 0x8000, 0x00), (4, 0x8000, 0x01), (6,
          0x8000, 0x00),
        (8, BitVec.ofNat 16 n, 0x00)].foldl storeAt (banked .serial 8 2)
      0x8000 ≤ (BitVec.ofNat 16 n).toNat ∧ t.cpu.halted = false) := by decide +kernel

/-- A three-bank image whose bank register holds 3, which no run from reset reaches (assumption 8). -/
def outOfRange : State :=
  let s := banked .serial 3 1
  { s with mapper := { s.mapper with serial := { s.mapper.serial with prgBank := 3 } } }

/-- A reset write where the banks are in range, and one whose bank check fails. -/
theorem witness_SerialWrites_reset : ¬ tooSoon outOfRange ∧ BanksOk (banked .serial 8 2) ∧
    outOfRange.cfg.variant = .serial ∧ outOfRange.cpu.halted = false ∧ ¬ BanksOk outOfRange ∧
    (busWrite 0x8000 0x80 outOfRange).cpu.haltInfo = some ⟨.mapperFault, 0x8000, 0x80, some 3⟩ ∧
    (busWrite 0x8000 0x80 outOfRange).mapper.serial.control = outOfRange.mapper.serial.control := by
  refine ⟨?_, by decide +kernel⟩
  rintro ⟨k, hk, -⟩
  cases hk

theorem witness_SerialWrites_halt : (stores (w5 10 0xE000 0x03) (banked .serial 3 1)).cpu.halted =
    true := by
  decide +kernel

theorem witness_ScanlineRegisters : plain.cfg.variant = .fixed ∧
    (banked .scanline 1 0).cfg.variant = .scanline := by
  decide

theorem witness_ScanlineRegisters_banks :
    (∀ n ∈ ([0x8000, 0x9FFE] : List Nat), 0x8000 ≤ (BitVec.ofNat 16 n).toNat ∧
        (BitVec.ofNat 16 n).toNat < 0xA000 ∧ (BitVec.ofNat 16 n).toNat % 2 = 0) ∧
    (∀ n ∈ ([0x8001, 0x9FFF] : List Nat), (BitVec.ofNat 16 n).toNat < 0xA000 ∧
        (BitVec.ofNat 16 n).toNat % 2 = 1) ∧
    (∀ n ∈ ([0xA000, 0xBFFE] : List Nat), 0xA000 ≤ (BitVec.ofNat 16 n).toNat ∧
        (BitVec.ofNat 16 n).toNat < 0xC000 ∧ (BitVec.ofNat 16 n).toNat % 2 = 0) ∧
    (∀ n ∈ ([0xA001, 0xBFFF] : List Nat), 0xA000 ≤ (BitVec.ofNat 16 n).toNat ∧
        (BitVec.ofNat 16 n).toNat < 0xC000 ∧ (BitVec.ofNat 16 n).toNat % 2 = 1) := by decide

theorem witness_ScanlineRegisters_interrupt :
    (∀ n ∈ ([0xC000, 0xDFFE] : List Nat), 0xC000 ≤ (BitVec.ofNat 16 n).toNat ∧
        (BitVec.ofNat 16 n).toNat < 0xE000 ∧ (BitVec.ofNat 16 n).toNat % 2 = 0) ∧
    (∀ n ∈ ([0xC001, 0xDFFF] : List Nat), 0xC000 ≤ (BitVec.ofNat 16 n).toNat ∧
        (BitVec.ofNat 16 n).toNat < 0xE000 ∧ (BitVec.ofNat 16 n).toNat % 2 = 1) ∧
    (∀ n ∈ ([0xE000, 0xFFFE] : List Nat), 0xE000 ≤ (BitVec.ofNat 16 n).toNat ∧
        (BitVec.ofNat 16 n).toNat % 2 = 0) ∧
    (∀ n ∈ ([0xE001, 0xFFFF] : List Nat), 0xE000 ≤ (BitVec.ofNat 16 n).toNat ∧
        (BitVec.ofNat 16 n).toNat % 2 = 1) := by decide

theorem witness_BankWindows : reduce 2 3 = some 2 ∧
    (∀ s ∈ [plain, banked .serial 16 16, banked .scanline 128 32],
      s.cfg.wellFormed = true ∧ failingBanks s.cfg s.mapper = []) ∧
    0 < (banked .serial 16 16).cfg.chrBanks8 ∧
    (plain.cfg.variant = .fixed ∧ plain.cfg.prgBanks16 = 1) ∧
    ((banked .fixed 2 0).cfg.variant = .fixed ∧ (banked .fixed 2 0).cfg.prgBanks16 = 2) ∧
    (banked .serial 1 0).mapper.serial.control.toNat / 4 % 4 = 3 ∧
    ({ (banked .serial 1 0).mapper.serial with control := 0x08 } :
        SerialRegs).control.toNat / 4 % 4 = 2 := by
  decide +kernel

/-- The least power of two above counts that are one, a power of two, and neither. -/
theorem witness_BankWindows_reduce : ∀ q ∈ [(1, 0), (4, 2), (5, 3), (8, 3)],
    1 ≤ q.1 ∧ q.1 ≤ 2 ^ q.2 ∧ ∀ j < q.2, 2 ^ j < q.1 := by decide

/-- A banked machine with `control`, or `bank_select`, equal to `v`. -/
def layoutOf (v : Nat) (s : State) : State :=
  { s with mapper := { s.mapper with
    serial := { s.mapper.serial with control := BitVec.ofNat 5 v, prgBank := 5, chrBank0 := 3, chrBank1 := 2 }
    scan := { s.mapper.scan with bankSelect := BitVec.ofNat 8 v } } }

/-- In every layout there is a switchable slot in each window whose bank reduces. -/
theorem witness_BankWindows_slots :
    ∀ s ∈ [layoutOf 0x00 (banked .serial 8 2), layoutOf 0x14 (banked .serial 8 2),
      layoutOf 0x08 (banked .serial 8 2), layoutOf 0x1C (banked .serial 8 2),
      layoutOf 0x00 (banked .scanline 8 4), layoutOf 0xC0 (banked .scanline 8 4)],
      ∀ w ∈ [false, true], ∃ r ∈ switchable s.cfg s.mapper, r.pattern = w ∧
        (reduce r.bank r.count).isSome = true ∧ 0 < r.size := by decide +kernel

/-- A slot that fails the check, and the bank it names. -/
theorem witness_BankWindows_failing : 3 ∈ failingBanks outOfRange.cfg outOfRange.mapper ∧
    ∃ r ∈ switchable outOfRange.cfg outOfRange.mapper, r.bank = 3 ∧ reduce r.bank r.count = none := by
  decide +kernel

/-- The reset state meets the premise of every invariant, and has a next state. -/
theorem witness_MemoriesInvariant : MemoriesOk State.reset ∧ ∃ t, step State.reset = .next t := by
  refine ⟨?_, (next_of_view (f := fun t => t.stepCount) (a := 1)
      (by decide +kernel)).imp fun _ h => h.1⟩
  obtain ⟨h1, h2, h3, h4, h5, h6, -⟩ := reset_memories
  refine ⟨h1, h2, h3, h4, h5, h6, fun y hy => ?_⟩
  have : State.reset.ppu.row y = [] := by
    simp [Ppu.row, State.reset, State.powerOn, Ppu.reset, Launch.blank, hy]
  rw [this]
  exact ⟨Memory.nil_wf, Memory.nil_below 256⟩

theorem witness_RegistersInvariant : StatusOk State.reset ∧ HaltOk State.reset ∧ CycOk State.reset ∧
    GridOk State.reset ∧ SpritesOk State.reset ∧ GridOk (dotAt 260 340 0 0) := by decide

theorem witness_MapperInvariant : MapperOk State.reset ∧ BanksOk State.reset ∧
    MapperOk (serialAt 12 4) ∧
    BanksOk (banked .scanline 128 32) := by decide +kernel

theorem witness_InvariantsAtReset : Config.blank.wellFormed = true ∧ Launch.blank.Ok := by
  refine ⟨by decide, ?_⟩
  have h : ∀ n, Memory.Wf [] ∧ Memory.Below [] n := fun n => ⟨Memory.nil_wf, Memory.nil_below n⟩
  refine ⟨h _, h _, h _, h _, h _, h _, fun y hy => ?_⟩
  have : Launch.blank.fb[y]?.getD [] = [] := by simp [Launch.blank, hy]
  rw [this]
  exact h 256


end Sys2Proof.Tests
end

section
/-! PROOF. Every system tick keeps every memory in canonical form and inside its size (00_scope.md R7). -/

namespace Sys2Proof.Machine

/-- Bus reads, bus writes and register writes, in any order, keep every memory canonical. -/
theorem Access.memories {s t : State} (h : Access s t) (hs : MemoriesOk s) : MemoriesOk t := by
  refine h.keeps hs ?read ?write ?regs
  case read => exact fun a u hu => (busRead_frame a u).memories hu
  case write => exact fun a d u hu => busWrite_memories a d u hu
  case regs => exact fun u c hu _ => hu.congr _ ⟨rfl, rfl, rfl, rfl, rfl, rfl, rfl⟩

/-- A Processor step keeps every memory canonical: apart from its accesses it writes only the step
count, the poll's bookkeeping and the halt record, none of them in a memory. -/
theorem cpuStep_memories {s t : State} (h : cpuStep s = .next t) (hs : MemoriesOk s) :
    MemoriesOk t := by
  refine cpuStep_keeps h hs ?count ?access ?poll ?halt
  case access => exact fun _ _ ha hu => ha.memories hu
  case count => exact fun u hu => hu.congr _ ⟨rfl, rfl, rfl, rfl, rfl, rfl, rfl⟩
  case poll => exact fun u hu => hu.congr _ ⟨rfl, rfl, rfl, rfl, rfl, rfl, rfl⟩
  case halt => exact fun u _ _ hu => hu.congr _ ⟨rfl, rfl, rfl, rfl, rfl, rfl, rfl⟩

/-- Settles O41: the Processor step and each of the three dots keep every memory canonical. -/
theorem memoriesInvariant : Obligations.MemoriesInvariant := fun _ _ hs h =>
  step_keeps h hs (fun _ _ hu => cpuStep_memories hu) ppuStep_memories

end Sys2Proof.Machine
end

section
/-! PROOF. A tick at a boundary with no interrupt runs the decoded instruction: bytes in plain memory
that decode are what the fetch reads (30_encoding.md R123), and the boundary action is then the
instruction's own (40_processor_step.md R160, R161). -/

namespace Sys2Proof.Machine

/-- Everything a successful decode can be: one of the three formats of R121, its opcode's row applied
to the operand bytes. -/
theorem decode_ok_cases {bytes rest : List Byte} {i : Instr} (h : decode bytes = .ok (i, rest)) :
    (∃ op, bytes = op :: rest ∧ decodeOpcode op = some (.one i)) ∨
    (∃ op b f, bytes = op :: b :: rest ∧ decodeOpcode op = some (.two f) ∧ i = f b) ∨
    (∃ op lo hi f, bytes = op :: lo :: hi :: rest ∧ decodeOpcode op = some (.three f) ∧
      i = f (word16 lo hi)) := by
  unfold decode at h
  split at h
  · cases h
  · next op _ =>
    split at h
    · cases h
    · next hrow => cases h; exact .inl ⟨op, rfl, hrow⟩
    · next hrow => cases h; exact .inr (.inl ⟨op, _, _, rfl, hrow, rfl⟩)
    · cases h
    · next hrow => cases h; exact .inr (.inr ⟨op, _, _, _, rfl, hrow, rfl⟩)
    · cases h

/-- Bytes of plain memory at `pc` that decode to `i` are fetched as `i`, and the fetch changes
nothing (R123, R161 b). -/
theorem fetch_of_decode {s : State} {bytes rest : List Byte} {i : Instr}
    (hd : decode bytes = .ok (i, rest))
    (hm : ∀ k b, bytes[k]? = some b → s.peek (s.cpu.pc + BitVec.ofNat 16 k) = some b) :
    fetch s = (.instr i, s) := by
  have hread : ∀ k b, bytes[k]? = some b → busRead (s.cpu.pc + BitVec.ofNat 16 k) s = (b, s) :=
    fun k b hb => busRead_peek (hm k b hb)
  have hopcode : ∀ op, bytes[0]? = some op → busRead s.cpu.pc s = (op, s) :=
    fun op hop => by simpa using hread 0 op hop
  rcases decode_ok_cases hd with
    ⟨op, rfl, hrow⟩ | ⟨op, b, f, rfl, hrow, rfl⟩ | ⟨op, lo, hi, f, rfl, hrow, rfl⟩
  · simp only [fetch, hopcode op rfl, hrow]
  · have h1 : busRead (s.cpu.pc + 1) s = (b, s) := hread 1 b rfl
    simp only [fetch, hopcode op rfl, hrow, h1]
  · have h1 : busRead (s.cpu.pc + 1) s = (lo, s) := hread 1 lo rfl
    have h2 : busRead (s.cpu.pc + 2) s = (hi, s) := hread 2 hi rfl
    simp only [fetch, hopcode op rfl, hrow, h1, h2]

/-- A boundary whose poll finds nothing is the meaning of the instruction it fetches (R161). -/
theorem boundary_of_fetch {s s1 : State} {i : Instr} (hp : pollResult s = .nothing)
    (hf : fetch (afterPoll s) = (.instr i, s1)) : boundary s = exec i s1 := by
  simp only [boundary, hp, fetchAndExec, hf]

/-- A tick at a boundary that fetches `i` is `i`, the countdown and three dots (R9, R160). -/
theorem step_of_fetch {s s1 : State} {i : Instr} (hh : s.cpu.halted = false) (hc : s.cpu.cyc = 0)
    (hp : pollResult (countStep s) = .nothing)
    (hf : fetch (afterPoll (countStep s)) = (.instr i, s1)) :
    step s = Out.map (fun u => threeDots (countDown u)) (exec i s1) := by
  obtain ⟨u, hu, -⟩ := exec_done i s1
  rw [step_boundary hh hc ((boundary_of_fetch hp hf).trans hu), hu, Out.map]

/-- Settles O34: bytes of plain memory that decode to `i` are fetched as `i`, the step count and the
poll leaving `pc` and plain memory as they are. -/
theorem stepRunsDecoded : Obligations.StepRunsDecoded := by
  intro s i hh hc hp _
  constructor
  · exact fun bytes hd hm => step_of_fetch hh hc hp (fetch_of_decode hd hm)
  · exact fun s1 hf => step_of_fetch hh hc hp hf

end Sys2Proof.Machine
end

section
/-! PROOF. Every system tick keeps the Mapper's invariants (10_state.md R53, R56; 49_mapper_bus.md
R456, R457): they speak of the configuration and the Mapper alone, so only register writes and the
scanline counter of the dots matter. -/

namespace Sys2Proof.Machine

/-- Only the configuration and the Mapper matter to `MapperOk`. -/
theorem MapperOk.congr {s t : State} (hc : t.cfg = s.cfg) (hm : t.mapper = s.mapper)
    (hs : MapperOk s) : MapperOk t := by
  unfold MapperOk at hs ⊢
  rwa [hc, hm]

/-- Only the configuration and the Mapper matter to `BanksOk`. -/
theorem BanksOk.congr {s t : State} (hc : t.cfg = s.cfg) (hm : t.mapper = s.mapper)
    (hs : BanksOk s) : BanksOk t := by
  unfold BanksOk at hs ⊢
  rwa [hc, hm]

@[simp] theorem ppuStep_cpu (s : State) : (ppuStep s).cpu = s.cpu := (ppuStep_tick s).keeps.1

@[simp] theorem ppuStep_cfg (s : State) : (ppuStep s).cfg = s.cfg := (ppuStep_tick s).keeps.2.1

/-- Of the Mapper a dot writes the interrupt line, the scanline counter and its reload flag only. -/
theorem TickFrame.mapper {s t : State} (h : TickFrame s t) : t.mapper = { s.mapper with
    irqPending := t.mapper.irqPending
    scan := { s.mapper.scan with
      irqCounter := t.mapper.scan.irqCounter, irqReload := t.mapper.scan.irqReload } } := by
  unfold TickFrame at h
  rw [h]

/-- A dot keeps `MapperOk`: it moves the Mapper's line in the Scanline variant alone (R455). -/
theorem ppuStep_mapperOk (s : State) (hs : MapperOk s) : MapperOk (ppuStep s) := by
  obtain ⟨hline, hmirror, hcount⟩ := hs
  unfold MapperOk
  rw [ppuStep_cfg]
  refine ⟨fun hv => ?line, fun hf => ?mirror, ?count⟩
  case line => rw [ppuStep_mapper s hv]; exact hline hv
  case mirror => rw [(ppuStep_tick s).mapper]; exact hmirror hf
  case count => rw [(ppuStep_tick s).mapper]; exact hcount

/-- A dot keeps `BanksOk`: the bank registers stay, and the check reads no other (R457). -/
theorem ppuStep_banksOk (s : State) (hs : BanksOk s) : BanksOk (ppuStep s) := by
  unfold BanksOk
  rw [ppuStep_cfg, (ppuStep_tick s).mapper]
  exact hs

/-- Settles O43: register writes and dots keep both invariants, and nothing else a tick does writes
the Mapper. -/
theorem mapperInvariant : Obligations.MapperInvariant := fun _ _ h =>
  ⟨step_keepsMapper (fun _ _ => MapperOk.congr) writeRegister_mapperOk ppuStep_mapperOk h,
   step_keepsMapper (fun _ _ => BanksOk.congr) writeRegister_banksOk ppuStep_banksOk h⟩

end Sys2Proof.Machine
end

section
/-! PROOF. Every system tick keeps the Processor's and the Picture Generator's register invariants:
the fixed bits of `P`, the halt record, the bound on `cyc`, the timing grid and the number of selected
sprites (10_state.md R24, R27, R29, R46, R48). -/

namespace Sys2Proof.Machine

/-! ## The Processor's status byte and halt record -/

/-- A property of the Processor's registers that bus writes, register writes, the poll's line sample and
a halt keep is kept by every step: reads, the step count and the dots leave the registers. -/
theorem step_keepsCpu {P : Cpu → Prop} (hwrite : ∀ a d u, P u.cpu → P (busWrite a d u).cpu)
    (hregs : ∀ c c', RegWrite c c' → P c → P c')
    (hsample : ∀ c b, P c → P { c with nmiPrev := b })
    (hhalt : ∀ c i, P c → P { c with halted := true, haltInfo := some i })
    {s t : State} (h : step s = .next t) (hs : P s.cpu) : P t.cpu := by
  refine step_keeps (P := fun u => P u.cpu) h hs ?cpu ?dot
  case dot => exact fun u hu => by rwa [ppuStep_cpu]
  case cpu =>
    intro u v huv hu
    refine cpuStep_keeps (P := fun u => P u.cpu) huv hu ?count ?access ?poll ?halt
    case count => exact fun u hu => hu
    case access =>
      intro u v ha hu
      exact ha.keeps (P := fun u => P u.cpu) hu (fun a u hu => by rwa [busRead_cpu]) hwrite
        fun u c hu hc => hregs u.cpu c hc hu
    case poll => exact fun u hu => hsample u.cpu _ hu
    case halt => exact fun u a op hu => hhalt u.cpu _ hu

/-- A step keeps bits 4 and 5 of `P` (R24). -/
theorem step_statusOk {s t : State} (h : step s = .next t) (hs : StatusOk s) : StatusOk t := by
  refine step_keepsCpu (P := fun c => c.p.getLsbD 5 = true ∧ c.p.getLsbD 4 = false)
    ?write ?regs ?sample ?halt h hs
  case write => exact fun a d u hu => by rwa [busWrite_cpu]
  case regs => exact fun _ _ hc => hc.status
  case sample => exact fun _ _ hc => hc
  case halt => exact fun _ _ hc => hc

/-- A step keeps the halted flag and its record in agreement (R29): both are written together. -/
theorem step_haltOk {s t : State} (h : step s = .next t) (hs : HaltOk s) : HaltOk t := by
  refine step_keepsCpu (P := fun c => c.halted = c.haltInfo.isSome) ?write ?regs ?sample ?halt h hs
  case write =>
    intro a d u hu
    rcases busWrite_cases a d u with hcpu | ⟨-, n, r, k, l, hfault⟩
    · rwa [hcpu]
    · rw [hfault]; rfl
  case regs => exact fun _ _ hc hu => by rwa [hc.halted, hc.haltInfo]
  case sample => exact fun _ _ hc => hc
  case halt => exact fun _ _ _ => rfl

/-! ## The countdown -/

/-- A fetch leaves `cyc` and the configuration. -/
theorem fetch_cyc {s s1 : State} {f : Fetched} (h : fetch s = (f, s1)) :
    s1.cpu.cyc = s.cpu.cyc ∧ s1.cfg = s.cfg := by
  have hf := fetch_frame s
  rw [h] at hf
  exact ⟨by rw [hf.cpu], hf.cfg⟩

/-- A boundary action leaves `cyc` bounded: a service costs 7, an instruction at most 7 and the object-DMA
stall, and a halt leaves `cyc` (R27, R178, R180, R535). -/
theorem boundary_cycOk {s u : State} (h : boundary s = .next u) (hs : CycOk s) : CycOk u := by
  obtain ⟨u', hu, hcase⟩ := boundary_cases s
  rw [h] at hu
  cases hu
  rcases hcase with ⟨-, rfl⟩ | ⟨-, rfl⟩ | ⟨-, ⟨i, s1, hf, he⟩ | ⟨op, s1, hf, rfl⟩⟩
  · exact Nat.le_add_right 7 _
  · exact Nat.le_add_right 7 _
  · obtain ⟨hcyc, hcfg⟩ := fetch_cyc hf
    obtain ⟨v, hv, hd⟩ := exec_done i s1
    rw [he] at hv
    cases hv
    obtain ⟨hcfg', -, -⟩ := hd.access.frame
    unfold CycOk
    rw [hcfg']
    rcases hd.cost with ⟨hkept, -⟩ | ⟨-, hcost⟩
    · rw [hkept, hcyc, hcfg]; exact hs
    · exact hcost
  · obtain ⟨hcyc, hcfg⟩ := fetch_cyc hf
    show s1.cpu.cyc ≤ 7 + s1.cfg.oamDmaStall
    rw [hcyc, hcfg]
    exact hs

/-- The countdown only lowers `cyc`. -/
theorem countDown_cycOk {s : State} (hs : CycOk s) : CycOk (countDown s) := by
  unfold countDown
  split
  · exact hs
  · exact Nat.le_trans (Nat.sub_le _ _) hs

/-- A step keeps the bound on `cyc` (R27). -/
theorem step_cycOk {s t : State} (h : step s = .next t) (hs : CycOk s) : CycOk t := by
  refine step_keeps h hs ?cpu ?dot
  case dot =>
    intro u hu
    unfold CycOk
    rwa [ppuStep_cpu, ppuStep_cfg]
  case cpu =>
    intro u v huv hu
    obtain ⟨v', hv, hcase⟩ := cpuStep_cases u
    rw [huv] at hv
    cases hv
    rcases hcase with ⟨-, rfl⟩ | ⟨-, -, rfl⟩ | ⟨-, -, w, hw, rfl⟩
    · exact hu
    · exact Nat.le_trans (Nat.sub_le _ _) hu
    · exact countDown_cycOk (boundary_cycOk hw hu)

/-! ## The timing grid and the selected sprites -/

/-- The counters of the grid and the number of selected sprites are the same in `s` and `t`. -/
def SameCounters (s t : State) : Prop :=
  t.ppu.dot = s.ppu.dot ∧ t.ppu.scanline = s.ppu.scanline ∧ t.ppu.secCount = s.ppu.secCount

/-- A bus write reaches none of them: no port leads there (R410, R411). -/
theorem WriteFrame.sameCounters {s t : State} (h : WriteFrame s t) : SameCounters s t := by
  unfold SameCounters
  rw [h.ppu]
  exact ⟨rfl, rfl, rfl⟩

theorem SameCounters.trans {s t u : State} (h : SameCounters s t) (k : SameCounters t u) :
    SameCounters s u :=
  ⟨k.1.trans h.1, k.2.1.trans h.2.1, k.2.2.trans h.2.2⟩

/-- A Processor step leaves the grid and the selected sprites to the dots. -/
theorem cpuStep_sameCounters {s t : State} (h : cpuStep s = .next t) : SameCounters s t := by
  refine cpuStep_keeps (P := SameCounters s) h ⟨rfl, rfl, rfl⟩ ?count ?access ?poll ?halt
  case count => exact fun _ hu => hu
  case access =>
    intro u v ha hu
    exact ha.keeps hu (fun a u hu => hu.trans (busRead_frame a u).toWrite.sameCounters)
      (fun a d u hu => hu.trans (busWrite_frame a d u).sameCounters) fun _ _ hu _ => hu
  case poll => exact fun _ hu => hu
  case halt => exact fun _ _ _ hu => hu

/-- The counter advance stays on the grid (R321, R322). -/
theorem advanceCounters_grid (ren : Bool) {p : Ppu}
    (h : p.dot ≤ 340 ∧ -1 ≤ p.scanline ∧ p.scanline ≤ 260) :
    (p.advanceCounters ren).dot ≤ 340 ∧ -1 ≤ (p.advanceCounters ren).scanline ∧
      (p.advanceCounters ren).scanline ≤ 260 := by
  obtain ⟨hd, hlow, hhigh⟩ := h
  unfold Ppu.advanceCounters
  split
  · split
    · show (if !p.odd && ren then 1 else 0) ≤ 340 ∧ (-1 : Int) ≤ -1 ∧ (-1 : Int) ≤ 260
      split <;> decide
    · show 0 ≤ 340 ∧ -1 ≤ p.scanline + 1 ∧ p.scanline + 1 ≤ 260
      omega
  · show p.dot + 1 ≤ 340 ∧ -1 ≤ p.scanline ∧ p.scanline ≤ 260
    omega

/-- A dot stays on the timing grid. -/
theorem ppuStep_gridOk (s : State) (hs : GridOk s) : GridOk (ppuStep s) := by
  obtain ⟨hdot, hline, -⟩ := ppuStep_counters s
  unfold GridOk
  rw [hdot, hline]
  exact advanceCounters_grid _ hs

/-- The scan of one object entry never selects a ninth sprite (R370). -/
theorem scanSprite_secCount_le (sl : Int) {p : Ppu} (n : Nat) (h : p.secCount ≤ 8) :
    (scanSprite sl p n).secCount ≤ 8 := by
  unfold scanSprite
  split
  · split
    · next hlt => exact hlt
    · exact h
  · exact h

/-- Sprite evaluation selects at most eight sprites (R370). -/
theorem evaluateSprites_secCount_le (sl : Int) (p : Ppu) : (p.evaluateSprites sl).secCount ≤ 8 := by
  unfold Ppu.evaluateSprites
  exact List.foldlRecOn (motive := fun q : Ppu => q.secCount ≤ 8) _ _ (Nat.zero_le 8)
    fun q hq n _ => scanSprite_secCount_le sl n hq

/-- Sprite fetch leaves the number of selected sprites (R375). -/
theorem fetchSprites_secCount (sl : Int) (s : State) :
    (fetchSprites sl s).ppu.secCount = s.ppu.secCount := by
  unfold fetchSprites
  exact List.foldlRecOn (motive := fun u : State => u.ppu.secCount = s.ppu.secCount) _ _ rfl
    fun u hu i _ => by
      obtain ⟨-, -, hcount, -⟩ := fetchSprite_eq sl u i
      rw [hcount, hu]

/-- The pipelines of a dot keep at most eight sprites selected: only evaluation, at dot 256, selects. -/
theorem renderEvents_spritesOk (sl : Int) (d : Nat) {s : State} (hs : SpritesOk s) :
    SpritesOk (renderEvents sl d s) := by
  have hbg : (backgroundDot d s).ppu.secCount = s.ppu.secCount := by rw [backgroundDot_frame]
  have heval : ∀ u : State, SpritesOk (u.mapPpu (Ppu.evaluateSprites sl)) := fun u =>
    evaluateSprites_secCount_le sl u.ppu
  by_cases h257 : d = 257
  · subst h257
    rw [renderEvents_257]
    unfold SpritesOk
    rw [fetchSprites_secCount]
    exact hs
  · simp only [renderEvents, if_neg h257]
    by_cases h256 : d = 256
    · rw [if_pos h256]
      exact heval _
    · simp only [h256, false_and, if_false]
      split
      · unfold SpritesOk; rw [hbg]; exact hs
      · exact hs

/-- A dot keeps at most eight sprites selected (R46). -/
theorem ppuStep_spritesOk (s : State) (hs : SpritesOk s) : SpritesOk (ppuStep s) := by
  have hbase : SpritesOk (dotBase s) := by
    unfold SpritesOk
    rw [dotBase_frame]
    exact hs
  have hcopy : ∀ u : State, SpritesOk u → SpritesOk (verticalCopyEvent s.ppu.scanline s.ppu.dot u) := by
    intro u hu
    unfold verticalCopyEvent
    split <;> exact hu
  unfold SpritesOk
  rw [ppuStep_parts, advanceCounters_keeps (·.secCount) (fun _ _ _ _ => rfl)]
  split
  · refine hcopy _ ?_
    split
    · exact renderEvents_spritesOk _ _ hbase
    · exact hbase
  · exact hbase

/-- A step stays on the timing grid (R48, R322). -/
theorem step_gridOk {s t : State} (h : step s = .next t) (hs : GridOk s) : GridOk t := by
  refine step_keeps h hs (fun u v huv hu => ?_) ppuStep_gridOk
  obtain ⟨hdot, hline, -⟩ := cpuStep_sameCounters huv
  unfold GridOk
  rwa [hdot, hline]

/-- A step keeps at most eight sprites selected (R46). -/
theorem step_spritesOk {s t : State} (h : step s = .next t) (hs : SpritesOk s) : SpritesOk t := by
  refine step_keeps h hs (fun u v huv hu => ?_) ppuStep_spritesOk
  obtain ⟨-, -, hcount⟩ := cpuStep_sameCounters huv
  unfold SpritesOk
  rwa [hcount]

/-- Settles O42: each of the five invariants is kept by every tick. -/
theorem registersInvariant : Obligations.RegistersInvariant := fun _ _ h =>
  ⟨step_statusOk h, step_haltOk h, step_cycOk h, step_gridOk h, step_spritesOk h⟩

end Sys2Proof.Machine
end

section
/-! PROOF. The reset event leaves every register at the value the spec lists, and `pc` at the word the
router reads from the reset vector (10_state.md R32, R52; 70_reset_and_hazards.md R560). -/

namespace Sys2Proof.Machine

/-- At reset the router reads `pc` at the reset vector: both bytes lie in the program window (R79). -/
theorem powerOn_pc (c : Config) (l : Launch) : (State.powerOn c l).cpu.pc =
    word16 (busRead 0xFFFC (State.powerOn c l)).1 (busRead 0xFFFD (State.powerOn c l)).1 := by
  have hlo : (State.powerOn c l).peek 0xFFFC = some (prgWin c (Mapper.reset c) 0x7FFC) := rfl
  have hhi : (State.powerOn c l).peek 0xFFFD = some (prgWin c (Mapper.reset c) 0x7FFD) := rfl
  rw [busRead_peek hlo, busRead_peek hhi]
  rfl

/-- Settles O29: the registers are the listed values by the definition of the reset event; `pc` is what
the router reads at the vector. -/
theorem resetState : Obligations.ResetState := by
  intro c l
  refine ⟨?cpu, rfl, rfl, rfl, rfl, rfl, rfl, rfl, rfl, rfl, rfl, rfl, rfl⟩
  case cpu => rw [← powerOn_pc]; rfl

end Sys2Proof.Machine
end

section
/-! PROOF. The router: work RAM and the ports repeat, RAM bytes are read back, the window shows the
image; unclaimed addresses, write-only ports and the audio/IO range (20_memory.md R72 to R81, R86). -/

namespace Sys2Proof.Machine

/-! ## Which operation an address reaches -/

/-- A read of work RAM: one of 2048 cells, and no side effect (R72). -/
theorem busRead_workRam {a : Addr} (h : a.toNat < 0x2000) (s : State) :
    busRead a s = (s.wram.read (a.toNat % 2048), s) := by
  rw [busRead, if_pos h]

/-- A write of work RAM reaches one of 2048 cells (R73). -/
theorem busWrite_workRam {a : Addr} (h : a.toNat < 0x2000) (d : Byte) (s : State) :
    busWrite a d s = { s with wram := s.wram.write (a.toNat % 2048) d } := by
  rw [busWrite, if_pos h]

/-- A read between the audio/IO range and cartridge RAM finds nothing (R78, R80). -/
theorem busRead_unclaimed {a : Addr} (h : 0x4018 ≤ a.toNat) (h' : a.toNat < 0x6000) (s : State) :
    busRead a s = (s.cfg.openBus, s) := by
  have hcart : cartRead s a = s.cfg.openBus := by
    rw [cartRead, mapCpuAddress, if_neg (by omega)]
    exact if_neg (by omega)
  rw [busRead, if_neg (by omega), if_neg (by omega), if_neg (by omega), if_neg (by omega), hcart,
    ite_self]

/-- A write between the audio/IO range and cartridge RAM is discarded (R78, R81). -/
theorem busWrite_unclaimed {a : Addr} (h : 0x4018 ≤ a.toNat) (h' : a.toNat < 0x6000) (d : Byte)
    (s : State) : busWrite a d s = s := by
  have hcart : cartWrite a d s = s := by
    rw [cartWrite, if_neg (by omega), if_neg (by omega)]
  rw [busWrite, if_neg (by omega), if_neg (by omega), if_neg (by omega), if_neg (by omega), hcart,
    ite_self]

/-- The object-DMA address reads as `OPEN_BUS` (R72). -/
theorem busRead_dmaAddress {a : Addr} (h : a.toNat = 0x4014) (s : State) :
    busRead a s = (s.cfg.openBus, s) := by
  rw [busRead, if_neg (by omega), if_neg (by omega), if_pos h]

/-- The write-only ports read as `OPEN_BUS` (R410). -/
theorem ppuRegRead_writeOnly {p : Nat} (h : p ∈ [0, 1, 3, 5, 6]) (s : State) :
    ppuRegRead p s = (s.cfg.openBus, s) := by
  simp only [List.mem_cons, List.not_mem_nil, or_false] at h
  rcases h with rfl | rfl | rfl | rfl | rfl <;> rfl

/-- A read in the audio/IO range is the environment's to answer (R72, R77). -/
theorem busRead_io {a : Addr} (h : isIo a) (s : State) : busRead a s = ioRead a s := by
  obtain ⟨hlow, hhigh, hdma⟩ := h
  rw [busRead, if_neg (by omega), if_neg (by omega), if_neg hdma, if_pos hhigh]

/-- A write in the audio/IO range is only recorded (R73, R77). -/
theorem busWrite_io {a : Addr} (h : isIo a) (d : Byte) (s : State) :
    busWrite a d s = s.emit (.ioWrite a d) := by
  obtain ⟨hlow, hhigh, hdma⟩ := h
  rw [busWrite, if_neg (by omega), if_neg (by omega), if_neg hdma, if_pos hhigh]

/-- A settled answer is used before the free value (R86, assumption 4). -/
theorem ioRead_settled (a : Addr) {s : State} {b : Byte} {rest : List Byte}
    (h : s.env.ioAnswers = b :: rest) : (ioRead a s).1 = b := by
  simp only [ioRead, h]

/-! ## The statements -/

/-- Settles O32: an address reaches its cell through its remainder alone, so a mirror reaches the same
cell; RAM and the window are read through `peek`. -/
theorem routerMirrors : Obligations.RouterMirrors := by
  intro a b s d
  refine ⟨?workRam, ?ports, ?cartRam, ?window⟩
  case workRam =>
    intro ha hb hab
    have hback : (busWrite a d s).peek b = some d := by
      rw [peek_busWrite_ram (.inl ha), if_pos (.inr ⟨ha, hb, hab⟩)]
    refine ⟨?_, ?_, by rw [busRead_peek hback]⟩
    · rw [busRead_workRam ha, busRead_workRam hb, hab]
    · rw [busWrite_workRam ha, busWrite_workRam hb, hab]
  case ports =>
    intro ha ha' hb hb' hab
    have hpa : isPort a (b.toNat % 8) := ⟨ha, ha', hab⟩
    have hpb : isPort b (b.toNat % 8) := ⟨hb, hb', rfl⟩
    exact ⟨by rw [busRead_port hpa, busRead_port hpb], by rw [busWrite_port hpa, busWrite_port hpb]⟩
  case cartRam =>
    intro ha ha'
    have hpeek := peek_busWrite_ram (.inr ⟨ha, ha'⟩) d s
    have hback : (busWrite a d s).peek a = some d := by rw [hpeek, if_pos (.inl rfl)]
    refine ⟨by rw [busRead_peek hback], fun c hc => ?_⟩
    rw [hpeek, if_neg]
    rintro (rfl | ⟨hlow, -, -⟩)
    · exact hc rfl
    · omega
  case window =>
    intro ha
    have hpeek : s.peek a = some (prgWin s.cfg s.mapper (a.toNat - 0x8000)) := by
      rw [State.peek, if_neg (by omega), if_pos ha]
    exact busRead_peek hpeek

/-- Settles O33: each range reaches one operation of the router, and that operation changes nothing or
only the history and the environment's settled answers. -/
theorem routerEdges : Obligations.RouterEdges := by
  intro a s d
  refine ⟨?unclaimed, ?dma, ?writeOnly, ?status, ?ioWrite, ?ioRead⟩
  case unclaimed => exact fun h h' => ⟨busRead_unclaimed h h' s, busWrite_unclaimed h h' d s⟩
  case dma => exact fun h => busRead_dmaAddress h s
  case writeOnly => exact fun p hp h => (busRead_port h s).trans (ppuRegRead_writeOnly hp s)
  case status => exact fun h => busWrite_port h d s
  case ioWrite => exact fun h => busWrite_io h d s
  case ioRead => exact fun h => ⟨(ioRead a s).1, busRead_io h s, fun _ _ => ioRead_settled a⟩

end Sys2Proof.Machine
end

section
/-! PROOF. The picture-generator address space, range by range, and the data port in front of it
(20_memory.md R95 to R98, 48_ppu_registers.md R424 to R426). -/

namespace Sys2Proof.Machine

/-! ## The picture-generator memory, one range at a time -/

/-- The nametable cell in terms of the physical nametable the mirroring selects (R97). -/
theorem ntCell_eq (s : State) (p : PAddr) : ntCell s.mapper.mirror p =
    if nametableAt s p < 2 then (false, 1024 * nametableAt s p + p.toNat % 1024)
    else (true, 1024 * (nametableAt s p - 2) + p.toNat % 1024) := by
  have hoffset : p.toNat % 4096 % 1024 = p.toNat % 1024 := Nat.mod_mod_of_dvd _ (by decide)
  simp only [ntCell, physicalNametable_eq, hoffset]
  rfl

/-- The palette with the cell of `p` holding the low six bits of `d` (R96, R98). -/
def Ppu.paletteWith (q : Ppu) (p : PAddr) (d : Byte) : Vector (BitVec 6) 32 :=
  q.palette.set (palIndex p).toNat (d.extractLsb' 0 6) (palIndex p).isLt

/-- A palette write changes the cell the address names and no other (R98). -/
theorem paletteWith_toNat (q : Ppu) (p : PAddr) (d : Byte) (i : Fin 32) :
    (q.paletteWith p d)[i].toNat =
      if i.val = paletteCellAt p then d.toNat % 64 else q.palette[i].toNat := by
  have hset : (q.paletteWith p d)[i] =
      if (palIndex p).toNat = i.val then d.extractLsb' 0 6 else q.palette[i] :=
    Vector.getElem_set (palIndex p).isLt i.isLt
  rw [hset, palIndex_toNat]
  by_cases hi : i.val = paletteCellAt p
  · rw [if_pos hi.symm, if_pos hi]
    simp [BitVec.extractLsb'_toNat]
  · rw [if_neg (Ne.symm hi), if_neg hi]

section
variable (s : State) {p : PAddr} (d : Byte)

theorem ppuRead_patternRom (h : p.toNat < 0x2000) (hc : 0 < s.cfg.chrBanks8) :
    ppuRead s p = chrWin s.cfg s.mapper p.toNat := by
  rw [ppuRead, if_pos h, mapPictureAddress, if_pos hc]

theorem ppuWrite_patternRom (h : p.toNat < 0x2000) (hc : 0 < s.cfg.chrBanks8) :
    ppuWrite p d s = s := by
  rw [ppuWrite, if_pos h, if_neg (by omega)]

theorem ppuRead_patternRam (h : p.toNat < 0x2000) (hc : s.cfg.chrBanks8 = 0) :
    ppuRead s p = s.patRam.read p.toNat := by
  rw [ppuRead, if_pos h, mapPictureAddress, if_neg (by omega)]

theorem ppuWrite_patternRam (h : p.toNat < 0x2000) (hc : s.cfg.chrBanks8 = 0) :
    ppuWrite p d s = { s with patRam := s.patRam.write p.toNat d } := by
  rw [ppuWrite, if_pos h, if_pos hc]

theorem ppuRead_nametable (h : 0x2000 ≤ p.toNat) (h' : p.toNat < 0x3F00) (hn : nametableAt s p < 2) :
    ppuRead s p = s.ntram.read (1024 * nametableAt s p + p.toNat % 1024) := by
  rw [ppuRead, if_neg (by omega), if_pos h', ntCell_eq, if_pos hn]

theorem ppuWrite_nametable (h : 0x2000 ≤ p.toNat) (h' : p.toNat < 0x3F00) (hn : nametableAt s p < 2) :
    ppuWrite p d s =
      { s with ntram := s.ntram.write (1024 * nametableAt s p + p.toNat % 1024) d } := by
  rw [ppuWrite, if_neg (by omega), if_pos h', ntCell_eq, if_pos hn]

theorem ppuRead_fourScreen (h : 0x2000 ≤ p.toNat) (h' : p.toNat < 0x3F00) (hn : 2 ≤ nametableAt s p) :
    ppuRead s p = s.ntramExt.read (1024 * (nametableAt s p - 2) + p.toNat % 1024) := by
  rw [ppuRead, if_neg (by omega), if_pos h', ntCell_eq, if_neg (by omega)]

theorem ppuWrite_fourScreen (h : 0x2000 ≤ p.toNat) (h' : p.toNat < 0x3F00) (hn : 2 ≤ nametableAt s p) :
    ppuWrite p d s =
      { s with ntramExt := s.ntramExt.write (1024 * (nametableAt s p - 2) + p.toNat % 1024) d } := by
  rw [ppuWrite, if_neg (by omega), if_pos h', ntCell_eq, if_neg (by omega)]

/-- A palette read is the entry of the cell, zero-extended (R95, R98). -/
theorem ppuRead_palette_toNat (h : 0x3F00 ≤ p.toNat) :
    (ppuRead s p).toNat = (s.ppu.palette[paletteCellAt p]?.getD 0).toNat := by
  have hcell : s.ppu.palette[paletteCellAt p]? = some (s.ppu.paletteAt (palIndex p)) := by
    rw [← palIndex_toNat]
    exact Vector.getElem?_eq_getElem (palIndex p).isLt
  rw [ppuRead, if_neg (by omega), if_neg (by omega), hcell, BitVec.toNat_setWidth_of_le (by decide)]
  rfl

theorem ppuWrite_palette (h : 0x3F00 ≤ p.toNat) :
    ppuWrite p d s = { s with ppu := { s.ppu with palette := s.ppu.paletteWith p d } } := by
  rw [ppuWrite, if_neg (by omega), if_neg (by omega)]
  rfl

end

/-! ## The data port -/

/-- The address the data port works on is `v` cut to fourteen bits (R424, R425). -/
theorem dataAddress_eq {s : State} {p : PAddr} (hp : p.toNat = s.ppu.v.toNat % 16384) :
    s.ppu.v.setWidth 14 = p :=
  BitVec.eq_of_toNat_eq (by rw [BitVec.toNat_setWidth, hp])

/-- The increment moves `v` to `nextData` and nothing else (R426). -/
theorem mapPpu_incV (s : State) :
    s.mapPpu Ppu.incV = { s with ppu := { s.ppu with v := nextData s } } := by
  rw [State.mapPpu, incV_eq]
  rfl

section
variable {a : Addr} {s : State} {p : PAddr}

/-- A data read below the palette: the buffer, which is then refilled (R424). -/
theorem busRead_dataPort_buffered (ha : isPort a 7) (hp : p.toNat = s.ppu.v.toNat % 16384)
    (h : p.toNat < 0x3F00) : busRead a s = (s.ppu.rdbuf, { s with ppu := { s.ppu with
      rdbuf := ppuRead s p, v := nextData s } }) := by
  rw [busRead_port ha, ppuRegRead, dataRead, dataAddress_eq hp, if_pos h]
  exact congrArg (Prod.mk _)
    (mapPpu_incV { s with ppu := { s.ppu with rdbuf := ppuRead s p } })

/-- A data read of the palette: the entry at once, and the buffer filled from the nametable byte under
it (R424). -/
theorem busRead_dataPort_palette (ha : isPort a 7) (hp : p.toNat = s.ppu.v.toNat % 16384)
    (h : 0x3F00 ≤ p.toNat) : busRead a s = (ppuRead s p, { s with ppu := { s.ppu with
      rdbuf := ppuRead s (p - 0x1000), v := nextData s } }) := by
  rw [busRead_port ha, ppuRegRead, dataRead, dataAddress_eq hp, if_neg (by omega)]
  exact congrArg (Prod.mk _)
    (mapPpu_incV { s with ppu := { s.ppu with rdbuf := ppuRead s (p - 0x1000) } })

/-- A data write: the write of the picture-generator memory, then the increment (R425, R426). -/
theorem busWrite_dataPort (ha : isPort a 7) (hp : p.toNat = s.ppu.v.toNat % 16384) (d : Byte) :
    busWrite a d s = (ppuWrite p d s).mapPpu Ppu.incV := by
  rw [busWrite_port ha, ppuRegWrite, dataWrite, dataAddress_eq hp]

end

/-- Settles O56: the port's reads and writes are those of the picture-generator memory at `p` followed by
the increment; each range of that memory has its read and its write. -/
theorem dataPort : Obligations.DataPort := by
  intro a d s p ha hp
  have hwrite := busWrite_dataPort ha hp d
  refine ⟨busRead_dataPort_buffered ha hp, busRead_dataPort_palette ha hp, ?patternRom, ?patternRam,
    ?nametable, ?fourScreen, ?palette⟩
  case patternRom =>
    intro h hc
    exact ⟨ppuRead_patternRom s h hc, by rw [hwrite, ppuWrite_patternRom s d h hc, mapPpu_incV]⟩
  case patternRam =>
    intro h hc
    exact ⟨ppuRead_patternRam s h hc, by rw [hwrite, ppuWrite_patternRam s d h hc, mapPpu_incV]; rfl⟩
  case nametable =>
    intro h h' hn
    exact ⟨ppuRead_nametable s h h' hn,
      by rw [hwrite, ppuWrite_nametable s d h h' hn, mapPpu_incV]; rfl⟩
  case fourScreen =>
    intro h h' hn
    exact ⟨ppuRead_fourScreen s h h' hn,
      by rw [hwrite, ppuWrite_fourScreen s d h h' hn, mapPpu_incV]; rfl⟩
  case palette =>
    intro h
    refine ⟨ppuRead_palette_toNat s h, s.ppu.paletteWith p d, ?_, paletteWith_toNat s.ppu p d⟩
    rw [hwrite, ppuWrite_palette s d h, mapPpu_incV]
    rfl

end Sys2Proof.Machine
end

section
/-! PROOF. The decoder and the encoder agree: every instruction lies in a row of the opcode table, every
row is what the encoder writes, and the bytes of no row are the 105 unrecognised ones (30_encoding.md
R120 to R123, R130, R132, R134). -/

namespace Sys2Proof

open Sys2Proof.Machine

/-! ## From an instruction to its row -/

/-- What a row makes of operand bytes; `none` where their number is not that of its format (R121). -/
def Row.instr? : Row → List Byte → Option Instr
  | .one i, [] => some i
  | .two f, [b] => some (f b)
  | .three f, [lo, hi] => some (f (word16 lo hi))
  | _, _ => none

/-- An opcode byte followed by the operand bytes of its row decodes to what the row makes of them. -/
theorem decode_of_row {op : Byte} {r : Row} {args : List Byte} {i : Instr}
    (hrow : decodeOpcode op = some r) (hargs : r.instr? args = some i) (rest : List Byte) :
    decode (op :: args ++ rest) = .ok (i, rest) := by
  unfold Row.instr? at hargs
  split at hargs
  · cases hargs; simp [decode, hrow]
  · cases hargs; simp [decode, hrow]
  · cases hargs; simp [decode, hrow]
  · cases hargs

set_option maxRecDepth 4000 in
/-- Every instruction is encoded as an opcode byte of the table and operand bytes of which that byte's
row makes the instruction (R130): the two bytes of an address are put together again. -/
theorem encode_row (i : Instr) : ∃ op r args,
    encode i = op :: args ∧ decodeOpcode op = some r ∧ r.instr? args = some i := by
  cases i <;> exact ⟨_, _, _, rfl, rfl, by simp [Row.instr?]⟩

/-- Decoding inverts encoding, whatever bytes follow. -/
theorem decode_encode (i : Instr) (rest : List Byte) : decode (encode i ++ rest) = .ok (i, rest) := by
  obtain ⟨op, r, args, hbytes, hrow, hargs⟩ := encode_row i
  rw [hbytes]
  exact decode_of_row hrow hargs rest

/-- Settles O1: every instruction lies in the row of its opcode byte, and every operand value is legal. -/
theorem decodeEncode : Obligations.DecodeEncode := fun i rest => ⟨rfl, decode_encode i rest⟩

/-! ## From a row to the encoding -/

/-- Every instruction of the row is encoded as `op` and its operand bytes. -/
def Row.EncodedWith (op : Byte) : Row → Prop
  | .one i => encode i = [op]
  | .two f => ∀ b, encode (f b) = [op, b]
  | .three f => ∀ w, encode (f w) = [op, loByte w, hiByte w]

/-- What a lookup finds is a row of the table. -/
theorem findRow_mem {t : List (Nat × Row)} {n : Nat} {r : Row} (h : findRow t n = some r) :
    (n, r) ∈ t := by
  induction t with
  | nil => cases h
  | cons e t ih =>
    obtain ⟨k, q⟩ := e
    unfold findRow at h
    split at h
    · next hk => cases h; rw [hk]; exact List.mem_cons_self
    · exact List.mem_cons_of_mem _ (ih h)

/-- The encoder writes each of the 151 rows as the table has it (R130). -/
theorem opcodeRows_encoded : ∀ e ∈ opcodeRows, e.2.EncodedWith (BitVec.ofNat 8 e.1) := by
  simp only [opcodeRows, rows01, rows23, rows45, rows67, rows89, rowsAB, rowsCD, rowsEF,
    List.forall_mem_append, List.forall_mem_cons, List.not_mem_nil, false_imp_iff, implies_true,
    and_true, Row.EncodedWith]
  and_intros <;> intros <;> rfl

/-- The encoder writes the opcode byte a row is found at. -/
theorem decodeOpcode_encoded {op : Byte} {r : Row} (h : decodeOpcode op = some r) :
    r.EncodedWith op := by
  simpa using opcodeRows_encoded _ (findRow_mem h)

/-- Settles O2: in each of the three formats the bytes read are those the encoder writes for the row. -/
theorem encodeDecode : Obligations.EncodeDecode := by
  intro bytes i rest h
  rcases decode_ok_cases h with
    ⟨op, rfl, hrow⟩ | ⟨op, b, f, rfl, hrow, rfl⟩ | ⟨op, lo, hi, f, rfl, hrow, rfl⟩
  · have he : encode i = [op] := decodeOpcode_encoded hrow
    rw [he]; rfl
  · have he : encode (f b) = [op, b] := decodeOpcode_encoded hrow b
    rw [he]; rfl
  · have he : encode (f (word16 lo hi)) = [op, loByte (word16 lo hi), hiByte (word16 lo hi)] :=
      decodeOpcode_encoded hrow (word16 lo hi)
    rw [he, loByte_word16, hiByte_word16]; rfl

/-! ## The unrecognised bytes -/

/-- Of the 256 opcode bytes, those in no row are the listed ones (R132). -/
theorem decodeOpcode_eq_none_iff :
    ∀ op : Byte, decodeOpcode op = none ↔ op.toNat ∈ unrecognizedBytes := by decide

/-- A byte in no row is refused by name, whatever follows it (R132). -/
theorem decode_unrecognized {op : Byte} (h : decodeOpcode op = none) (rest : List Byte) :
    decode (op :: rest) = .error (.unrecognizedOpcode op) := by
  simp only [decode, h]

/-- Settles O3: a listed number is below 256, so it is the byte it names. -/
theorem unrecognizedBytes_refused : Obligations.UnrecognizedBytes := by
  refine ⟨decodeOpcode_eq_none_iff, rfl, fun op hop rest => ?_⟩
  have hbyte : ∀ n ∈ unrecognizedBytes, n < 256 := by decide
  have htoNat : (BitVec.ofNat 8 op).toNat = op := Nat.mod_eq_of_lt (hbyte op hop)
  exact decode_unrecognized ((decodeOpcode_eq_none_iff _).mpr (htoNat.symm ▸ hop)) rest

/-! ## Words of the table -/

/-- Settles O4: each word is the encoding of the instruction it stands for. -/
theorem specWords : Obligations.SpecWords :=
  ⟨decode_encode (.ldaImm 0x80) [], decode_encode (.ldaAbs 0x2002) [],
   decode_encode (.staAbs 0x2000) [], decode_encode (.stxZp 0x10) [],
   decode_encode (.adcImm 0x50) [], decode_encode (.sbcImm 0xF0) [],
   decode_encode (.bitAbs 0x2002) [], decode_encode (.cmpImm 0x41) [],
   decode_encode .aslAcc [], decode_encode (.incZp 0x10) [],
   decode_encode (.jsr 0x1234) [], decode_encode (.jmpInd 0x02FF) [],
   decode_encode (.bne 0xFB) [], decode_encode .brk [],
   decode_encode .php [], decode_encode .nop [], decode_encode (.ldaIzx 0xFE) []⟩

end Sys2Proof
end

section
/-! PROOF. Nothing stops the machine, and a running Processor halts for one of two causes: an
unrecognised opcode byte at `pc`, or a Mapper register write (30_encoding.md R132; 60_exceptions.md R520
to R523). -/

namespace Sys2Proof.Machine

/-! ## The Mapper fault -/

/-- `i` is the record of a Mapper register write of a banked variant (R457, R522). -/
def MapperRecord (c : Config) (i : HaltInfo) : Prop :=
  i.reason = .mapperFault ∧ 0x8000 ≤ i.address.toNat ∧ i.bank.isSome = true ∧ c.variant ≠ .fixed

/-- The Processor's halt record is that of a Mapper register write. -/
def HaltedByMapper (s : State) : Prop := ∃ i, s.cpu.haltInfo = some i ∧ MapperRecord s.cfg i

/-- The Fixed variant has no register to write (R461), so no write halts. -/
theorem busWrite_cpu_fixed (a : Addr) (d : Byte) {s : State} (hv : s.cfg.variant = .fixed) :
    (busWrite a d s).cpu = s.cpu := by
  by_cases ha : 0x8000 ≤ a.toNat
  · rw [busWrite_window ha]
    simp only [writeRegister, hv]
  · exact busWrite_cpu_low (by omega) d s

/-- A bus write leaves the Processor, or is a Mapper fault. -/
theorem busWrite_cpu_or_mapper (a : Addr) (d : Byte) (s : State) :
    (busWrite a d s).cpu = s.cpu ∨ HaltedByMapper (busWrite a d s) := by
  by_cases hv : s.cfg.variant = .fixed
  · exact .inl (busWrite_cpu_fixed a d hv)
  · rcases busWrite_cases a d s with hcpu | ⟨ha, n, r, k, l, hfault⟩
    · exact .inl hcpu
    · rw [hfault]
      exact .inr ⟨⟨.mapperFault, a, d, some n⟩, rfl, rfl, ha, rfl, hv⟩

/-- Only the halt record and the configuration matter to `HaltedByMapper`. -/
theorem HaltedByMapper.congr {s t : State} (hi : t.cpu.haltInfo = s.cpu.haltInfo)
    (hc : t.cfg = s.cfg) (h : HaltedByMapper s) : HaltedByMapper t := by
  unfold HaltedByMapper at h ⊢
  rwa [hi, hc]

/-- Of bus reads, bus writes and register writes only a Mapper fault halts a running Processor. -/
theorem Access.haltedByMapper {s t : State} (h : Access s t) (hs : s.cpu.halted = false)
    (ht : t.cpu.halted = true) : HaltedByMapper t := by
  refine h.keeps (P := fun u => u.cpu.halted = true → HaltedByMapper u) ?start ?read ?write ?regs ht
  case start => intro hh; rw [hs] at hh; cases hh
  case read =>
    intro a u hu hh
    rw [busRead_cpu] at hh
    exact (hu hh).congr (by rw [busRead_cpu]) (busRead_cfg a u)
  case write =>
    intro a d u hu hh
    rcases busWrite_cpu_or_mapper a d u with hcpu | hfault
    · rw [hcpu] at hh
      exact (hu hh).congr (by rw [hcpu]) (busWrite_cfg a d u)
    · exact hfault
  case regs => exact fun u c hu hc hh => (hu (hc.halted ▸ hh)).congr hc.haltInfo rfl

/-! ## The boundary action -/

/-- A boundary action is accesses alone, or the halt at an opcode byte in no row (R132, R161). -/
theorem boundary_access_or_halt (s : State) : ∃ t, boundary s = .next t ∧
    (Access (afterPoll s) t ∨ ∃ op u, busRead s.cpu.pc (afterPoll s) = (op, u) ∧
      decodeOpcode op = none ∧ t = u.raiseHalt .unrecognizedOpcode s.cpu.pc op none) := by
  obtain ⟨t, ht, hcase⟩ := boundary_cases s
  refine ⟨t, ht, ?_⟩
  rcases hcase with ⟨-, rfl⟩ | ⟨-, rfl⟩ | ⟨-, ⟨i, s1, hf, he⟩ | ⟨op, s1, hf, rfl⟩⟩
  · exact .inl ((service_access ..).trans (setCyc_access ..))
  · exact .inl ((service_access ..).trans (setCyc_access ..))
  · obtain ⟨v, hv, hd⟩ := exec_done i s1
    rw [he] at hv
    cases hv
    have hfetch := fetch_access (afterPoll s)
    rw [hf] at hfetch
    exact .inl (hfetch.trans hd.access)
  · obtain ⟨hread, hrow⟩ := fetch_unrecognized hf
    exact .inr ⟨op, s1, hread, hrow, rfl⟩

/-- `i` names one of the two causes of a halt in a step from `pc` (R522). -/
def HaltCause (c : Config) (pc : Addr) (i : HaltInfo) : Prop :=
  i.reason = .unrecognizedOpcode ∧ i.address = pc ∧ i.byte.toNat ∈ unrecognizedBytes ∧ i.bank = none ∨
  MapperRecord c i

/-- A boundary action leaves the configuration and the step count, and halts a running Processor for one
of the two causes only. -/
theorem boundary_halt {s t : State} (h : boundary s = .next t) : t.cfg = s.cfg ∧
    t.stepCount = s.stepCount ∧ (s.cpu.halted = false → t.cpu.halted = true →
      ∃ i, t.cpu.haltInfo = some i ∧ HaltCause s.cfg s.cpu.pc i) := by
  obtain ⟨t', ht, hcase⟩ := boundary_access_or_halt s
  rw [h] at ht
  cases ht
  rcases hcase with hacc | ⟨op, u, hread, hrow, rfl⟩
  · obtain ⟨hcfg, hcount, -⟩ := hacc.frame
    refine ⟨hcfg, hcount, fun hs ht => ?_⟩
    obtain ⟨i, hi, hrecord⟩ := hacc.haltedByMapper hs ht
    exact ⟨i, hi, .inr (hcfg ▸ hrecord)⟩
  · have hframe := busRead_frame s.cpu.pc (afterPoll s)
    rw [hread] at hframe
    exact ⟨hframe.cfg, hframe.stepCount, fun _ _ =>
      ⟨_, rfl, .inl ⟨rfl, rfl, (decodeOpcode_eq_none_iff op).mp hrow, rfl⟩⟩⟩

/-! ## The step -/

/-- The countdown leaves the configuration, the step count and the halt record. -/
theorem countDown_keeps (s : State) : (countDown s).cfg = s.cfg ∧
    (countDown s).stepCount = s.stepCount ∧ (countDown s).cpu.halted = s.cpu.halted ∧
    (countDown s).cpu.haltInfo = s.cpu.haltInfo := by
  unfold countDown
  split <;> exact ⟨rfl, rfl, rfl, rfl⟩

/-- A Processor step never stops, counts itself, leaves a halted Processor, and halts a running one for
one of the two causes only. -/
theorem cpuStep_halt (s : State) : ∃ t, cpuStep s = .next t ∧ t.cfg = s.cfg ∧
    t.stepCount = s.stepCount + 1 ∧ (s.cpu.halted = true → t.cpu = s.cpu) ∧
    (s.cpu.halted = false → t.cpu.halted = true →
      ∃ i, t.cpu.haltInfo = some i ∧ HaltCause s.cfg s.cpu.pc i) := by
  obtain ⟨t, ht, hcase⟩ := cpuStep_cases s
  refine ⟨t, ht, ?_⟩
  rcases hcase with ⟨hs, rfl⟩ | ⟨hs, -, rfl⟩ | ⟨hs, -, u, hu, rfl⟩
  · exact ⟨rfl, rfl, fun _ => rfl, fun hr => absurd (hs.symm.trans hr) (by decide)⟩
  · exact ⟨rfl, rfl, fun hh => absurd (hs.symm.trans hh) (by decide),
      fun _ hh => absurd (hs.symm.trans hh) (by decide)⟩
  · obtain ⟨hcfg, hcount, hcause⟩ := boundary_halt hu
    obtain ⟨hcfg', hcount', hhalted, hinfo⟩ := countDown_keeps u
    rw [hcfg', hcount', hhalted, hinfo, hcfg, hcount]
    exact ⟨rfl, rfl, fun hh => absurd (hs.symm.trans hh) (by decide), hcause⟩

/-- Settles O37: the Processor step has the two causes, and the three dots leave the Processor, the
configuration and the step count. -/
theorem onlyTwoHalts : Obligations.OnlyTwoHalts := by
  intro s
  obtain ⟨u, hu, hstep⟩ := cpuStep_halt s
  obtain ⟨hcpu, hcfg, hcount, -⟩ := (threeDots_tick u).keeps
  refine ⟨threeDots u, step_eq hu, ?_⟩
  rw [hcpu, hcfg, hcount]
  exact hstep

/-! ## The unrecognised opcode -/

/-- The halt at an opcode byte in no row, in one equation (R132). -/
theorem boundary_unrecognized {s u : State} {op : Byte} (hp : pollResult s = .nothing)
    (hread : busRead s.cpu.pc (afterPoll s) = (op, u)) (hrow : decodeOpcode op = none) :
    boundary s = .next (u.raiseHalt .unrecognizedOpcode s.cpu.pc op none) := by
  have hread' : busRead (afterPoll s).cpu.pc (afterPoll s) = (op, u) := hread
  have hf : fetch (afterPoll s) = (.unrecognized op, u) := by simp only [fetch, hread', hrow]
  simp only [boundary, hp, fetchAndExec, hf]
  rfl

/-- Settles O38: the poll and the one read leave every register but the line sample, and every memory. -/
theorem unrecognizedHalts : Obligations.UnrecognizedHalts := by
  intro s op hp hop hmem
  obtain ⟨b, u, hread⟩ : ∃ b u, busRead s.cpu.pc (afterPoll s) = (b, u) := ⟨_, _, rfl⟩
  have hframe := busRead_frame s.cpu.pc (afterPoll s)
  rw [hread] at hop hframe ⊢
  subst hop
  refine ⟨_, boundary_unrecognized hp hread ((decodeOpcode_eq_none_iff b).mpr hmem), ?halt, ?store⟩
  case halt => rw [State.raiseHalt, hframe.cpu]; rfl
  case store => exact { hframe.sameStore with }

end Sys2Proof.Machine
end

section
/-! PROOF. Operand resolution in whole numbers: the effective address, the page-cross flag, and the
operand read (40_processor_step.md R164 to R174; 41_load_store_transfer.md R190). -/

namespace Sys2Proof.Machine

/-! ## Addresses in whole numbers -/

/-- An index is added to a 16-bit base modulo 65536 (R170, R171). -/
theorem indexed_toNat (base : Addr) (i : Byte) :
    (base + i.setWidth 16).toNat = (base.toNat + i.toNat) % 65536 := by
  have hi : (i.setWidth 16).toNat = i.toNat := zeroPage_toNat i
  rw [BitVec.toNat_add, hi]

/-- The second byte of a page-0 pointer wraps within the page (R173, R174). -/
theorem zeroPagePointer_toNat (z : Byte) (s : State) :
    (zeroPagePointer z s).1.toNat = pointerAt s z.toNat := by
  rw [zeroPagePointer_eq, word16_toNat, BitVec.toNat_add]
  rfl

/-- The effective address as a number (R164 to R167, R169 to R171, R173, R174). -/
theorem resolve_toNat (o : Operand) (s : State) : (resolve o s).1.toNat = operandAddress o s := by
  cases o with
  | imm b => exact BitVec.toNat_add s.cpu.pc 1
  | zp z => exact zeroPage_toNat z
  | zpx z => exact (zeroPage_toNat _).trans (BitVec.toNat_add z s.cpu.x)
  | zpy z => exact (zeroPage_toNat _).trans (BitVec.toNat_add z s.cpu.y)
  | abs w => rfl
  | abx w => exact indexed_toNat w s.cpu.x
  | aby w => exact indexed_toNat w s.cpu.y
  | izx z =>
    calc (zeroPagePointer (z + s.cpu.x) (advance 2 s)).1.toNat
      _ = pointerAt s (z + s.cpu.x).toNat := zeroPagePointer_toNat _ _
      _ = pointerAt s ((z.toNat + s.cpu.x.toNat) % 256) := by rw [BitVec.toNat_add]
  | izy z =>
    calc ((zeroPagePointer z (advance 2 s)).1 + s.cpu.y.setWidth 16).toNat
      _ = ((zeroPagePointer z (advance 2 s)).1.toNat + s.cpu.y.toNat) % 65536 := indexed_toNat _ _
      _ = (pointerAt s z.toNat + s.cpu.y.toNat) % 65536 := by
        rw [zeroPagePointer_toNat]; rfl

/-! ## The page-cross flag -/

/-- `pgx` after resolution: the three indexed forms compare the pages of base and effective address, the
others clear it (R28, R161 d, R170, R171, R174). -/
theorem resolve_pgx (o : Operand) (s : State) : (resolve o s).2.cpu.pgx = operandCrosses o s := by
  have hea := resolve_toNat o s
  cases o with
  | imm b => rfl
  | zp z => rfl
  | zpx z => rfl
  | zpy z => rfl
  | abs w => rfl
  | izx z =>
    show (zeroPagePointer (z + s.cpu.x) (advance 2 s)).2.cpu.pgx = false
    rw [zeroPagePointer_eq]
    rfl
  | abx w => exact (pageCross_eq w (resolve (.abx w) s).1).trans (by rw [hea]; rfl)
  | aby w => exact (pageCross_eq w (resolve (.aby w) s).1).trans (by rw [hea]; rfl)
  | izy z =>
    exact (pageCross_eq (zeroPagePointer z (advance 2 s)).1 (resolve (.izy z) s).1).trans
      (by rw [hea, zeroPagePointer_toNat]; rfl)

/-- Settles O5: address and flag in whole numbers, and the two cases of the operand read. -/
theorem operandResolution : Obligations.OperandResolution := by
  intro o s
  refine ⟨resolve_toNat o s, ?state, ?immediate, fun h => readOperand_bus h s⟩
  case state => rw [← resolve_pgx]; exact resolve_state o s
  case immediate => rintro b rfl; exact readOperand_imm b s

end Sys2Proof.Machine
end

section
/-! PROOF. Ticks that meet no boundary: the countdown of `cyc`, the halted Processor, and so the number
of steps an instruction or an interrupt sequence occupies (40_processor_step.md R160, R161, R178;
60_exceptions.md R520). -/

namespace Sys2Proof.Machine

/-! ## The Processor between boundaries -/

/-- The Processor after `n` ticks that meet no boundary: a running one has counted them down, a halted
one stands (R160, R520). -/
def Cpu.idle (n : Nat) (c : Cpu) : Cpu := if c.halted then c else { c with cyc := c.cyc - n }

/-- `n` ticks meet no boundary. -/
def Cpu.MayIdle (n : Nat) (c : Cpu) : Prop := c.halted = true ∨ n ≤ c.cyc

theorem Cpu.idle_halted {c : Cpu} (h : c.halted = true) (n : Nat) : c.idle n = c := if_pos h

theorem Cpu.idle_running {c : Cpu} (h : c.halted = false) (n : Nat) :
    c.idle n = { c with cyc := c.cyc - n } := by
  rw [Cpu.idle, h]; rfl

theorem Cpu.idle_zero (c : Cpu) : c.idle 0 = c := by
  cases h : c.halted with
  | true => exact Cpu.idle_halted h 0
  | false => exact Cpu.idle_running h 0

theorem Cpu.idle_idle (m n : Nat) (c : Cpu) : (c.idle m).idle n = c.idle (m + n) := by
  cases h : c.halted with
  | true => simp only [Cpu.idle_halted h]
  | false =>
    rw [Cpu.idle_running h, Cpu.idle_running h, Cpu.idle_running (by exact h), Nat.sub_sub]

/-- A running Processor meets no boundary only while `cyc` lasts. -/
theorem Cpu.MayIdle.le_cyc {n : Nat} {c : Cpu} (h : c.MayIdle n) (hrun : c.halted = false) :
    n ≤ c.cyc := h.resolve_left fun hhalt => Bool.false_ne_true (hrun.symm.trans hhalt)

/-- After one of `n + 1` ticks that meet no boundary the other `n` meet none. -/
theorem Cpu.MayIdle.idle_one {n : Nat} {c : Cpu} (h : c.MayIdle (n + 1)) : (c.idle 1).MayIdle n := by
  cases hc : c.halted with
  | true => rw [Cpu.idle_halted hc]; exact .inl hc
  | false =>
    rw [Cpu.idle_running hc]
    exact .inr (Nat.le_sub_of_add_le (h.le_cyc hc))

/-! ## Ticks that meet no boundary -/

/-- What `n` ticks that meet no boundary leave: the Processor has idled, the steps are counted, the
configuration and every plain memory byte are as they were. -/
structure Idled (n : Nat) (s t : State) : Prop where
  cpu : t.cpu = s.cpu.idle n
  stepCount : t.stepCount = s.stepCount + n
  cfg : t.cfg = s.cfg
  bytes : ∀ a, t.peek a = s.peek a

theorem Idled.refl (s : State) : Idled 0 s s := ⟨s.cpu.idle_zero.symm, rfl, rfl, fun _ => rfl⟩

theorem Idled.trans {m n : Nat} {s t u : State} (h : Idled m s t) (k : Idled n t u) :
    Idled (m + n) s u where
  cpu := by rw [k.cpu, h.cpu, Cpu.idle_idle]
  stepCount := by rw [k.stepCount, h.stepCount, Nat.add_assoc]
  cfg := k.cfg.trans h.cfg
  bytes a := (k.bytes a).trans (h.bytes a)

/-- One tick that meets no boundary: its three dots touch nothing the Processor sees (R9). -/
theorem step_idled {s : State} (h : s.cpu.MayIdle 1) : ∃ t, step s = .next t ∧ Idled 1 s t := by
  cases hh : s.cpu.halted with
  | true =>
    obtain ⟨hcpu, hcfg, hcount, hbytes⟩ := (threeDots_tick (countStep s)).keeps
    exact ⟨_, step_halted hh, hcpu.trans (Cpu.idle_halted hh 1).symm, hcount, hcfg, hbytes⟩
  | false =>
    have hc : s.cpu.cyc ≠ 0 := Nat.one_le_iff_ne_zero.mp (h.le_cyc hh)
    obtain ⟨hcpu, hcfg, hcount, hbytes⟩ :=
      (threeDots_tick ((countStep s).setCyc (s.cpu.cyc - 1))).keeps
    exact ⟨_, step_counting hh hc, hcpu.trans (Cpu.idle_running hh 1).symm, hcount, hcfg, hbytes⟩

/-- The first tick of a run. -/
theorem stepN_succ {s t : State} (h : step s = .next t) (n : Nat) : stepN (n + 1) s = stepN n t := by
  rw [stepN, h]

/-- `n` ticks that meet no boundary. -/
theorem stepN_idled (n : Nat) {s : State} (h : s.cpu.MayIdle n) :
    ∃ t, stepN n s = .next t ∧ Idled n s t := by
  induction n generalizing s with
  | zero => exact ⟨s, rfl, .refl s⟩
  | succ n ih =>
    obtain ⟨t, ht, hfirst⟩ := step_idled (h.imp id (Nat.le_trans (Nat.le_add_left 1 n)))
    obtain ⟨u, hu, hrest⟩ := ih (hfirst.cpu ▸ h.idle_one)
    exact ⟨u, (stepN_succ ht n).trans hu, Nat.add_comm 1 n ▸ hfirst.trans hrest⟩

/-- Settles O35: a running Processor idles down to its boundary, a halted one for ever. -/
theorem ticksWithoutBoundary : Obligations.TicksWithoutBoundary := by
  intro n s
  constructor
  · intro hrun hn
    obtain ⟨t, ht, h⟩ := stepN_idled n (s := s) (.inr hn)
    exact ⟨t, ht, h.cpu.trans (Cpu.idle_running hrun n), h.stepCount, h.cfg, h.bytes⟩
  · intro hhalt
    obtain ⟨t, ht, h⟩ := stepN_idled n (s := s) (.inl hhalt)
    exact ⟨t, ht, h.cpu.trans (Cpu.idle_halted hhalt n), h.stepCount, h.cfg, h.bytes⟩

/-! ## From a boundary to the next -/

/-- A boundary action that leaves the Processor running has loaded a cost of at least 2: 7 for a service,
the instruction's own otherwise (R161, R178, R535). -/
theorem boundary_cost {s u : State} (h : boundary s = .next u) (hrun : u.cpu.halted = false) :
    2 ≤ u.cpu.cyc := by
  obtain ⟨u', hu, hcase⟩ := boundary_cases s
  rw [h] at hu
  cases hu
  rcases hcase with ⟨-, rfl⟩ | ⟨-, rfl⟩ | ⟨-, ⟨i, s1, -, he⟩ | ⟨op, s1, -, rfl⟩⟩
  · rw [setCyc_cpu_cyc]; decide
  · rw [setCyc_cpu_cyc]; decide
  · obtain ⟨v, hv, hd⟩ := exec_done i s1
    rw [he] at hv
    cases hv
    rcases hd.cost with ⟨-, hhalt⟩ | ⟨hcost, -⟩
    · exact absurd (hrun.symm.trans hhalt) Bool.false_ne_true
    · exact hcost
  · cases hrun

theorem countDown_running {s : State} (h : s.cpu.halted = false) :
    countDown s = s.setCyc (s.cpu.cyc - 1) := by
  rw [countDown, h]; rfl

/-- Settles O36: the boundary's own tick is the first of the cost, and the rest meet no boundary. -/
theorem costIsSteps : Obligations.CostIsSteps := by
  intro s u hs hcyc hb hrun
  have hcost := boundary_cost hb hrun
  refine ⟨hcost, ?_⟩
  obtain ⟨n, hn⟩ : ∃ n, u.cpu.cyc = n + 1 := ⟨u.cpu.cyc - 1, by omega⟩
  have hfirst := step_boundary hs hcyc hb
  rw [countDown_running hrun, hn] at hfirst
  obtain ⟨hcpu, -, -, hbytes⟩ := (threeDots_tick (u.setCyc n)).keeps
  have hleft : (threeDots (u.setCyc n)).cpu.cyc = n := congrArg Cpu.cyc hcpu
  obtain ⟨t, ht, hrest⟩ := stepN_idled n (.inr (Nat.le_of_eq hleft.symm))
  refine ⟨t, hn ▸ (stepN_succ hfirst n).trans ht, ?cpu, fun a => (hrest.bytes a).trans (hbytes a)⟩
  case cpu =>
    rw [hrest.cpu, hcpu, Cpu.idle_running (by exact hrun), setCyc_cpu_cyc, Nat.sub_self]
    rfl

end Sys2Proof.Machine
end

section
/-! PROOF. Loads, stores and register transfers: the state each shared shape answers, written out, and
the frame it keeps (41_load_store_transfer.md R190 to R202; 40_processor_step.md R162, R178, R180). -/

namespace Sys2Proof.Machine

/-! ## What is outside the Processor's registers -/

/-- `v` is `u` with some of `A`, `X`, `Y`, `S` and `P` written: what the effect of an instruction that
writes no memory can do. -/
def RegsWritten (u v : State) : Prop :=
  v = { u with cpu := { u.cpu with
    a := v.cpu.a, x := v.cpu.x, y := v.cpu.y, s := v.cpu.s, p := v.cpu.p } }

/-- The processor space does not show the Processor's registers. -/
theorem SameOutsideCpu.peek {s t : State} (h : SameOutsideCpu s t) (a : Addr) :
    t.peek a = s.peek a := by
  rw [h]; rfl

theorem SameOutsideCpu.setCpu {s t : State} (h : SameOutsideCpu s t) (c : Cpu) :
    SameOutsideCpu s { t with cpu := c } := by
  rw [h]; rfl

/-- The state after operand resolution: `pc` past the instruction, `pgx` the page-cross flag. -/
theorem resolve_eq (o : Operand) (s : State) : (resolve o s).2 = { s with cpu := { s.cpu with
    pc := s.cpu.pc + BitVec.ofNat 16 (operandLength o), pgx := operandCrosses o s } } := by
  rw [← resolve_pgx]; exact resolve_state o s

theorem resolve_sameOutsideCpu (o : Operand) (s : State) : SameOutsideCpu s (resolve o s).2 := by
  rw [resolve_eq]; rfl

/-! ## Transfers: the implied shape (R162) -/

/-- An implied instruction that writes registers only does what `ImpliedDone` says. -/
theorem impliedDone {op : Byte} {i : Instr} {cost : Nat} {s v : State} (hi : Encoded1 op i)
    (hv : RegsWritten (advance 1 s) v) : ImpliedDone op i cost s (v.setCyc cost) := by
  have houtside : SameOutsideCpu s (v.setCyc cost) := by rw [hv]; rfl
  rw [hv] at houtside ⊢
  exact ⟨hi, rfl, rfl, rfl, rfl, rfl, rfl, houtside, houtside.peek⟩

/-- Settles O9: each transfer is the implied shape around one register write. -/
theorem transfers : Obligations.Transfers := by
  intro s
  refine ⟨?tax, ?tay, ?txa, ?tya, ?tsx, ?txs⟩
  case tax => exact ⟨_, impliedInstr_eq .., impliedDone rfl rfl, rfl, rfl, rfl, rfl, setZN_from _ _⟩
  case tay => exact ⟨_, impliedInstr_eq .., impliedDone rfl rfl, rfl, rfl, rfl, rfl, setZN_from _ _⟩
  case txa => exact ⟨_, impliedInstr_eq .., impliedDone rfl rfl, rfl, rfl, rfl, rfl, setZN_from _ _⟩
  case tya => exact ⟨_, impliedInstr_eq .., impliedDone rfl rfl, rfl, rfl, rfl, rfl, setZN_from _ _⟩
  case tsx => exact ⟨_, impliedInstr_eq .., impliedDone rfl rfl, rfl, rfl, rfl, rfl, setZN_from _ _⟩
  case txs => exact ⟨_, impliedInstr_eq .., impliedDone rfl rfl, rfl, rfl, rfl, rfl, rfl⟩

/-! ## Loads: the read shape (R190) -/

/-- The state after the operand read, its Processor written out. -/
def afterRead (o : Operand) (s : State) : State := { (readOperand o s).2 with cpu := { s.cpu with
  pc := s.cpu.pc + BitVec.ofNat 16 (operandLength o), pgx := operandCrosses o s } }

theorem readOperand_state (o : Operand) (s : State) : (readOperand o s).2 = afterRead o s := by
  have hcpu := readOperand_cpu o s
  rw [resolve_pgx] at hcpu
  rw [afterRead, ← hcpu]

/-- The state a read instruction of form `f` answers: `effect` on the byte read, then the base cost and
the page-cross cycle (R178). -/
def readResult (f : Form) (effect : Byte → State → State) (s : State) : State :=
  (effect (readOperand f.operand s).1 (afterRead f.operand s)).setCyc
    (f.base + if operandCrosses f.operand s then 1 else 0)

theorem readInstr_readResult (f : Form) (effect : Byte → State → State) (s : State) :
    readInstr f.base f.operand effect s = .next (readResult f effect s) := by
  rw [readInstr_eq, readOperand_state, resolve_pgx]; rfl

/-- A form whose meaning is the read shape, around an effect that writes registers and not `S`, completes
with the frame of `ReadDone`. -/
theorem readForm_done {f : Form} {effect : Byte → State → State} {s : State}
    (h : f.Encoded ∧ exec f.instr s = readInstr f.base f.operand effect s)
    (hregs : RegsWritten (afterRead f.operand s)
      (effect (readOperand f.operand s).1 (afterRead f.operand s)))
    (hsp : (readResult f effect s).cpu.s = s.cpu.s) :
    exec f.instr s = .next (readResult f effect s) ∧ ReadDone f s (readResult f effect s) := by
  refine ⟨h.2.trans (readInstr_readResult f effect s), ?_⟩
  obtain ⟨hstore, -, hports⟩ := (readOperand_frame f.operand s).of_resolve
  have hquiet (hq : f.operand.immediate?.isSome ∨ ¬ readHasEffect (resolve f.operand s).1) :
      SameOutsideCpu s (readOperand f.operand s).2 := by
    rw [readOperand_quiet _ _ hq]; exact resolve_sameOutsideCpu _ _
  rw [readResult, hregs] at hsp ⊢
  exact {
    encoded := h.1
    pc := rfl
    pgx := rfl
    cyc := rfl
    kept := ⟨hsp, rfl, rfl, rfl⟩
    outside := rfl
    store := { hstore with }
    ports := hports
    quiet := fun hq => (hquiet hq).setCpu _ }

/-- Settles O6: every form is the read shape around the write of its register, Z and N. -/
theorem loads : Obligations.Loads := by
  intro b w s
  refine ⟨fun f hf => ?lda, fun f hf => ?ldx, fun f hf => ?ldy⟩
  case lda =>
    obtain ⟨hexec, hdone⟩ := readForm_done (ldaForms_exec b w s f hf) rfl rfl
    exact ⟨_, hexec, hdone, rfl, rfl, rfl, setZN_from _ _⟩
  case ldx =>
    obtain ⟨hexec, hdone⟩ := readForm_done (ldxForms_exec b w s f hf) rfl rfl
    exact ⟨_, hexec, hdone, rfl, rfl, rfl, setZN_from _ _⟩
  case ldy =>
    obtain ⟨hexec, hdone⟩ := readForm_done (ldyForms_exec b w s f hf) rfl rfl
    exact ⟨_, hexec, hdone, rfl, rfl, rfl, setZN_from _ _⟩

/-! ## Stores: the write shape (R190) -/

/-- The Processor after an instruction of form `f` that writes memory: `pc`, `pgx`, `cyc` and `P`. -/
def Form.writeCpu (f : Form) (cost : Nat) (p : Byte) (s : State) : Cpu := { s.cpu with
  pc := s.cpu.pc + BitVec.ofNat 16 (operandLength f.operand)
  pgx := operandCrosses f.operand s
  cyc := cost
  p := p }

/-- One bus write to a RAM operand, on a state that differs from `s` in the Processor at most, does
what `RamWritten` says. -/
theorem ramWritten {f : Form} {s u : State} (hf : f.Encoded) (hram : isRam (resolve f.operand s).1)
    (hu : SameOutsideCpu s u) (r p : Byte) : RamWritten f r s
      { busWrite (resolve f.operand s).1 r u with cpu := f.writeCpu f.base p s } where
  encoded := hf
  pc := rfl
  pgx := rfl
  cyc := rfl
  kept := ⟨rfl, rfl, rfl, rfl⟩
  a := rfl
  x := rfl
  y := rfl
  outside := by rw [busWrite_ram_outside hram, hu]
  bytes a := (peek_busWrite_ram hram r u a).trans (by rw [hu.peek])

/-- One bus write to an operand outside RAM, on a state with the bytes of `s`, does what `DeviceWritten`
says. -/
theorem deviceWritten {f : Form} {s u : State} (hf : f.Encoded)
    (hram : ¬ isRam (resolve f.operand s).1) (hu : ∀ a, u.peek a = s.peek a) (r p : Byte) :
    DeviceWritten f r u s { busWrite (resolve f.operand s).1 r u with
      cpu := f.writeCpu (f.base + dmaExtra s.cfg (resolve f.operand s).1) p s } where
  encoded := hf
  pc := rfl
  pgx := rfl
  cyc := congrArg (f.base + ·) (dmaExtra_eq s.cfg _)
  kept := ⟨rfl, rfl, rfl, rfl⟩
  a := rfl
  x := rfl
  y := rfl
  outside := rfl
  bytes a ha := (peek_busWrite_device hram r u a ha).trans (hu a)

section
variable {f : Form} {s : State} {v : Byte}

/-- A store whose bus write does not halt: that write, and the Processor of `Form.writeCpu`. -/
theorem storeInstr_running
    (hrun : (busWrite (resolve f.operand s).1 v (resolve f.operand s).2).cpu.halted = false) :
    storeInstr f.base f.operand v s =
      .next { busWrite (resolve f.operand s).1 v (resolve f.operand s).2 with
        cpu := f.writeCpu (f.base + dmaExtra s.cfg (resolve f.operand s).1) s.cpu.p s } := by
  have hcpu (cost : Nat) : { (resolve f.operand s).2.cpu with cyc := cost } =
      f.writeCpu cost s.cpu.p s := by rw [resolve_eq]; rfl
  rw [storeInstr_eq, finish_running hrun, State.setCyc, busWrite_cpu_running hrun, hcpu]

/-- A form whose meaning is a store completes on a RAM operand, with the frame of `RamWritten`. -/
theorem storeForm_ram (h : f.Encoded ∧ exec f.instr s = storeInstr f.base f.operand v s)
    (hs : s.cpu.halted = false) (hram : isRam (resolve f.operand s).1) :
    ∃ t, exec f.instr s = .next t ∧ RamWritten f v s t ∧ t.cpu.p = s.cpu.p := by
  obtain ⟨hf, hexec⟩ := h
  have hrun : (busWrite (resolve f.operand s).1 v (resolve f.operand s).2).cpu.halted = false := by
    rw [busWrite_ram_cpu hram, resolve_eq]; exact hs
  rw [hexec, storeInstr_running hrun, dmaExtra_ram hram]
  exact ⟨_, rfl, ramWritten hf hram (resolve_sameOutsideCpu _ s) v s.cpu.p, rfl⟩

/-- A form whose meaning is a store completes outside RAM where its bus write does not halt, with the
frame of `DeviceWritten`. -/
theorem storeForm_device (h : f.Encoded ∧ exec f.instr s = storeInstr f.base f.operand v s)
    (hram : ¬ isRam (resolve f.operand s).1)
    (hrun : (busWrite (resolve f.operand s).1 v (resolve f.operand s).2).cpu.halted = false) :
    ∃ t, exec f.instr s = .next t ∧ DeviceWritten f v (resolve f.operand s).2 s t ∧
      t.cpu.p = s.cpu.p := by
  obtain ⟨hf, hexec⟩ := h
  exact ⟨_, hexec.trans (storeInstr_running hrun),
    deviceWritten hf hram (resolve_peek f.operand s) v s.cpu.p, rfl⟩

end

/-- Settles O7: every form is a store of its register. -/
theorem storesToRam : Obligations.StoresToRam := fun b w s hs =>
  ⟨fun f hf => storeForm_ram (staForms_exec b w s f hf) hs,
   fun f hf => storeForm_ram (stxForms_exec b w s f hf) hs,
   fun f hf => storeForm_ram (styForms_exec b w s f hf) hs⟩

/-- Settles O8: every form is a store of its register. -/
theorem storesElsewhere : Obligations.StoresElsewhere := fun b w s _ =>
  ⟨fun f hf => storeForm_device (staForms_exec b w s f hf),
   fun f hf => storeForm_device (stxForms_exec b w s f hf),
   fun f hf => storeForm_device (styForms_exec b w s f hf)⟩

end Sys2Proof.Machine
end

section
/-! PROOF. Arithmetic, logic, BIT and compare: the adder and the difference in whole numbers, and the
instructions that use them (42_arithmetic_logic.md R220 to R229). Every form is the read shape of
`readForm_done`; what differs is the value of `A` and the status byte. -/

namespace Sys2Proof.Machine

/-! ## The adder (R220) -/

theorem add8_result_toNat (a m : Byte) (c : Bool) :
    (add8 a m c).result.toNat = (a.toNat + m.toNat + c.toNat) % 256 :=
  BitVec.toNat_ofNat _ 8

theorem add8_carryOut (a m : Byte) (c : Bool) :
    (add8 a m c).carryOut = decide (256 ≤ a.toNat + m.toNat + c.toNat) := rfl

/-- The adder overflows iff both summands have the same sign and the result has another. -/
theorem add8_overflow (a m : Byte) (c : Bool) :
    (add8 a m c).overflow = (a.getLsbD 7 == m.getLsbD 7 &&
      (add8 a m c).result.getLsbD 7 != a.getLsbD 7) := by
  have hbits (r : Byte) : ((a ^^^ r) &&& (m ^^^ r)).getLsbD 7 =
      (a.getLsbD 7 == m.getLsbD 7 && r.getLsbD 7 != a.getLsbD 7) := by
    rw [BitVec.getLsbD_and, BitVec.getLsbD_xor, BitVec.getLsbD_xor]
    cases a.getLsbD 7 <;> cases m.getLsbD 7 <;> cases r.getLsbD 7 <;> rfl
  exact hbits _

/-! ## The adder on a complemented operand (R222) -/

theorem complement_toNat (m : Byte) : (m ^^^ 0xFF).toNat = 255 - m.toNat := by
  rw [show m ^^^ 0xFF = ~~~m from BitVec.xor_allOnes, BitVec.toNat_not]

/-- `A + (255 - M) + C` is `A - M - (1 - C)` modulo 256. -/
theorem add8_complement_result (a m : Byte) (c : Bool) :
    ((add8 a (m ^^^ 0xFF) c).result.toNat : Int) =
      ((a.toNat : Int) - m.toNat - (1 - c.toNat)) % 256 := by
  have hm := m.isLt
  rw [add8_result_toNat, complement_toNat]
  omega

/-- The carry out is the inverted borrow. -/
theorem add8_complement_carryOut (a m : Byte) (c : Bool) :
    (add8 a (m ^^^ 0xFF) c).carryOut = decide (m.toNat + (1 - c.toNat) ≤ a.toNat) := by
  have hm := m.isLt
  have hc := c.toNat_le
  rw [add8_carryOut, complement_toNat, decide_eq_decide]
  omega

/-- The subtraction overflows iff its operands differ in sign and the result has not the sign of `a`. -/
theorem add8_complement_overflow (a m : Byte) (c : Bool) :
    (add8 a (m ^^^ 0xFF) c).overflow = (a.getLsbD 7 != m.getLsbD 7 &&
      (add8 a (m ^^^ 0xFF) c).result.getLsbD 7 != a.getLsbD 7) := by
  have hsign : (m ^^^ 0xFF).getLsbD 7 = !m.getLsbD 7 := by
    rw [BitVec.getLsbD_xor]; exact Bool.xor_true _
  have hdiffer (x y : Bool) : (x == !y) = (x != y) := by cases x <;> cases y <;> rfl
  rw [add8_overflow, hsign, hdiffer]

/-! ## ADC and SBC -/

theorem getFlag_carry (p : Byte) : getFlag .carry p = p.getLsbD 0 := getFlag_eq .carry p

theorem adcEffect_toNat (m : Byte) (s : State) : (adcEffect m s).cpu.a.toNat =
    (s.cpu.a.toNat + m.toNat + (s.cpu.p.getLsbD 0).toNat) % 256 := by
  rw [← getFlag_carry]; exact add8_result_toNat _ _ _

/-- ADC writes C, Z, V and N as the adder gives them (R221). -/
theorem adcEffect_flags (m : Byte) (s : State) :
    CZVNFrom s.cpu.p (adcEffect m s).cpu.p (adcEffect m s).cpu.a
      (decide (256 ≤ s.cpu.a.toNat + m.toNat + (s.cpu.p.getLsbD 0).toNat))
      (s.cpu.a.getLsbD 7 == m.getLsbD 7 &&
        (adcEffect m s).cpu.a.getLsbD 7 != s.cpu.a.getLsbD 7) := by
  rw [← getFlag_carry, ← add8_carryOut]
  exact add8_overflow s.cpu.a m _ ▸ sumFlags_from _ s.cpu.p

/-- Settles O10: every form is the read shape around the adder on `A`, the operand byte and the carry. -/
theorem addWithCarry : Obligations.AddWithCarry := by
  intro b w s f hf
  obtain ⟨hexec, hdone⟩ := readForm_done (adcForms_exec b w s f hf) rfl rfl
  exact ⟨_, hexec, hdone, rfl, rfl, adcEffect_toNat _ (afterRead f.operand s),
    adcEffect_flags _ (afterRead f.operand s)⟩

theorem sbcEffect_toNat (m : Byte) (s : State) : ((sbcEffect m s).cpu.a.toNat : Int) =
    ((s.cpu.a.toNat : Int) - m.toNat - (1 - (s.cpu.p.getLsbD 0).toNat)) % 256 := by
  rw [← getFlag_carry]; exact add8_complement_result _ _ _

/-- SBC writes C, Z, V and N as the adder gives them on the complement (R222). -/
theorem sbcEffect_flags (m : Byte) (s : State) :
    CZVNFrom s.cpu.p (sbcEffect m s).cpu.p (sbcEffect m s).cpu.a
      (decide (m.toNat + (1 - (s.cpu.p.getLsbD 0).toNat) ≤ s.cpu.a.toNat))
      (s.cpu.a.getLsbD 7 != m.getLsbD 7 &&
        (sbcEffect m s).cpu.a.getLsbD 7 != s.cpu.a.getLsbD 7) := by
  rw [← getFlag_carry, ← add8_complement_carryOut]
  exact add8_complement_overflow s.cpu.a m _ ▸ sumFlags_from _ s.cpu.p

/-- Settles O11: as ADC, the operand byte complemented. -/
theorem subtractWithBorrow : Obligations.SubtractWithBorrow := by
  intro b w s f hf
  obtain ⟨hexec, hdone⟩ := readForm_done (sbcForms_exec b w s f hf) rfl rfl
  exact ⟨_, hexec, hdone, rfl, rfl, sbcEffect_toNat _ (afterRead f.operand s),
    sbcEffect_flags _ (afterRead f.operand s)⟩

/-! ## AND, ORA, EOR -/

/-- Settles O12: every form loads `A` with the bitwise result. -/
theorem logicOps : Obligations.LogicOps := by
  intro b w s
  refine ⟨fun f hf => ?and, fun f hf => ?ora, fun f hf => ?eor⟩
  case and =>
    obtain ⟨hexec, hdone⟩ := readForm_done (andForms_exec b w s f hf) rfl rfl
    exact ⟨_, hexec, hdone, rfl, rfl, setZN_from _ _, fun _ _ => BitVec.getLsbD_and⟩
  case ora =>
    obtain ⟨hexec, hdone⟩ := readForm_done (oraForms_exec b w s f hf) rfl rfl
    exact ⟨_, hexec, hdone, rfl, rfl, setZN_from _ _, fun _ _ => BitVec.getLsbD_or⟩
  case eor =>
    obtain ⟨hexec, hdone⟩ := readForm_done (eorForms_exec b w s f hf) rfl rfl
    exact ⟨_, hexec, hdone, rfl, rfl, setZN_from _ _, fun _ _ => BitVec.getLsbD_xor⟩

/-! ## BIT -/

theorem bitFlags_from (a m p : Byte) : BitTestFrom a m p (bitFlags a m p) := by
  intro i hi
  simp only [bitFlags, setFlag_bits _ _ _ _ hi, mask_bit, decide_eq_true_eq]
  by_cases h1 : i = 1
  · subst h1; simp [Bool.beq_eq_decide_eq]
  by_cases h6 : i = 6
  · subst h6; simp [BitVec.getLsbD_eq_getElem]
  by_cases h7 : i = 7
  · subst h7; simp [BitVec.getLsbD_eq_getElem]
  simp [h1, h6, h7]

/-- Settles O13: both forms write the status byte of `bitFlags` and no other register. -/
theorem bitTest : Obligations.BitTest := by
  intro b w s f hf
  obtain ⟨hexec, hdone⟩ := readForm_done (bitForms_exec b w s f hf) rfl rfl
  exact ⟨_, hexec, hdone, rfl, rfl, rfl, bitFlags_from _ _ _⟩

/-! ## CMP, CPX, CPY -/

/-- The difference of two bytes as an integer modulo 256. -/
theorem byteSub_toNat (r m : Byte) : ((r - m).toNat : Int) = ((r.toNat : Int) - m.toNat) % 256 := by
  have hm := m.isLt
  rw [BitVec.toNat_sub]
  omega

/-- The sign bit of a byte in whole numbers. -/
theorem byte_bit7 (v : Byte) : v.getLsbD 7 = decide (128 ≤ v.toNat) := BitVec.msb_eq_decide v

/-- Z and N of the difference, in integers (R227). -/
theorem compareFlags_compareFrom (r m p : Byte) : CompareFrom r m p (compareFlags r m p) := by
  have hzero : (r - m == 0) = decide (((r.toNat : Int) - m.toNat) % 256 = 0) := by
    rw [← byteSub_toNat, Bool.beq_eq_decide_eq, decide_eq_decide, ← BitVec.toNat_inj]
    exact Int.natCast_eq_zero.symm
  have hneg : (r - m).getLsbD 7 = decide (128 ≤ ((r.toNat : Int) - m.toNat) % 256) := by
    rw [byte_bit7, ← byteSub_toNat, decide_eq_decide]
    omega
  intro i hi
  rw [compareFlags_from r m p i hi, hzero, hneg]

/-- Settles O14: every form writes the status byte of `compareFlags` and no other register. -/
theorem compares : Obligations.Compares := by
  intro b w s
  refine ⟨fun f hf => ?cmp, fun f hf => ?cpx, fun f hf => ?cpy⟩
  case cmp =>
    obtain ⟨hexec, hdone⟩ := readForm_done (cmpForms_exec b w s f hf) rfl rfl
    exact ⟨_, hexec, hdone, rfl, rfl, rfl, compareFlags_compareFrom _ _ _⟩
  case cpx =>
    obtain ⟨hexec, hdone⟩ := readForm_done (cpxForms_exec b w s f hf) rfl rfl
    exact ⟨_, hexec, hdone, rfl, rfl, rfl, compareFlags_compareFrom _ _ _⟩
  case cpy =>
    obtain ⟨hexec, hdone⟩ := readForm_done (cpyForms_exec b w s f hf) rfl rfl
    exact ⟨_, hexec, hdone, rfl, rfl, rfl, compareFlags_compareFrom _ _ _⟩

end Sys2Proof.Machine
end

section
/-! PROOF. Shifts, rotates, increments and decrements: the two shapes that write a register, and the
read-modify-write shape (43_shift_rotate_incdec.md R250 to R260; 40_processor_step.md R178, R180). -/

namespace Sys2Proof.Machine

/-! ## Values and flags in whole numbers -/

theorem aslFn_eq : aslFn = fun v _ => (BitVec.ofNat 8 (2 * v.toNat), v.getLsbD 7) := by
  funext v c; obtain ⟨hasl, -, -, -⟩ := shiftFns_eq v c; exact hasl

theorem lsrFn_eq : lsrFn = fun v _ => (BitVec.ofNat 8 (v.toNat / 2), v.getLsbD 0) := by
  funext v c; obtain ⟨-, hlsr, -, -⟩ := shiftFns_eq v c; exact hlsr

theorem rolFn_eq :
    rolFn = fun v c => (BitVec.ofNat 8 (2 * v.toNat + c.toNat), v.getLsbD 7) := by
  funext v c; obtain ⟨-, -, hrol, -⟩ := shiftFns_eq v c; exact hrol

theorem rorFn_eq :
    rorFn = fun v c => (BitVec.ofNat 8 (v.toNat / 2 + 128 * c.toNat), v.getLsbD 0) := by
  funext v c; obtain ⟨-, -, -, hror⟩ := shiftFns_eq v c; exact hror

theorem aslFn_toNat (v : Byte) (c : Bool) : (aslFn v c).1.toNat = 2 * v.toNat % 256 := by
  rw [aslFn_eq, BitVec.toNat_ofNat]

theorem lsrFn_toNat (v : Byte) (c : Bool) : (lsrFn v c).1.toNat = v.toNat / 2 := by
  have hv := v.isLt
  rw [lsrFn_eq, BitVec.toNat_ofNat, Nat.mod_eq_of_lt (by omega)]

theorem rolFn_toNat (v : Byte) (c : Bool) :
    (rolFn v c).1.toNat = (2 * v.toNat + c.toNat) % 256 := by
  rw [rolFn_eq, BitVec.toNat_ofNat]

/-- The carry comes in as bit 7, above the seven bits left of `v`. -/
theorem rorFn_toNat (v : Byte) (c : Bool) :
    (rorFn v c).1.toNat = v.toNat / 2 + 128 * c.toNat := by
  have hv := v.isLt
  have hc := c.toNat_le
  rw [rorFn_eq, BitVec.toNat_ofNat, Nat.mod_eq_of_lt (by omega)]

theorem byteInc_toNat (v : Byte) : (v + 1).toNat = (v.toNat + 1) % 256 := BitVec.toNat_add v 1

theorem byteDec_toNat (v : Byte) : (v - 1).toNat = (v.toNat + 255) % 256 :=
  (BitVec.toNat_sub v 1).trans (congrArg (· % 256) (Nat.add_comm 255 v.toNat))

/-- The carry written first is not touched by `SetZN` (R251 to R254). -/
theorem setZN_carry_from (r p : Byte) (c : Bool) :
    CZNFrom p (setZN r (setFlag .carry c p)) r c := by
  intro i hi
  rw [setZN_from r _ i hi, putFlag_from .carry c p i hi]
  by_cases h0 : i = 0
  · subst h0; rfl
  · simp only [if_neg h0]

theorem setZN_withCarry_from (r p : Byte) (c : Bool) :
    CZNFrom p (setZN r (withCarry c p)) r c :=
  setFlag_carry c p ▸ setZN_carry_from r p c

/-! ## The accumulator and the index registers (R163, R162) -/

/-- An accumulator form, by the number `n` and the displaced bit `d` that its function gives. -/
theorem shiftAcc_writes {op : Byte} {i : Instr} {g : ShiftFn} {s : State} {n : Nat} {d : Bool}
    (hi : Encoded1 op i) (hexec : exec i s = shiftAcc g s)
    (hn : (g s.cpu.a (s.cpu.p.getLsbD 0)).1.toNat = n) (hd : (g s.cpu.a (s.cpu.p.getLsbD 0)).2 = d) :
    ∃ t, exec i s = .next t ∧ ImpliedDone op i 2 s t ∧ t.cpu.x = s.cpu.x ∧ t.cpu.y = s.cpu.y ∧
      t.cpu.s = s.cpu.s ∧ t.cpu.a.toNat = n ∧ CZNFrom s.cpu.p t.cpu.p t.cpu.a d := by
  rw [← getFlag_carry] at hn hd
  subst hn hd
  exact ⟨_, hexec, impliedDone hi rfl, rfl, rfl, rfl, rfl, setZN_carry_from _ _ _⟩

/-- Settles O15: each form is the accumulator shape around its shift function. -/
theorem shiftAccumulator : Obligations.ShiftAccumulator := fun _ =>
  ⟨shiftAcc_writes rfl rfl (aslFn_toNat _ _) rfl, shiftAcc_writes rfl rfl (lsrFn_toNat _ _) rfl,
   shiftAcc_writes rfl rfl (rolFn_toNat _ _) rfl, shiftAcc_writes rfl rfl (rorFn_toNat _ _) rfl⟩

/-- Settles O20: each instruction is the implied shape around one register write. -/
theorem indexSteps : Obligations.IndexSteps := by
  intro s
  refine ⟨?inx, ?iny, ?dex, ?dey⟩
  case inx => exact ⟨_, impliedInstr_eq .., impliedDone rfl rfl, rfl, rfl, rfl, byteInc_toNat _,
    setZN_from _ _⟩
  case iny => exact ⟨_, impliedInstr_eq .., impliedDone rfl rfl, rfl, rfl, rfl, byteInc_toNat _,
    setZN_from _ _⟩
  case dex => exact ⟨_, impliedInstr_eq .., impliedDone rfl rfl, rfl, rfl, rfl, byteDec_toNat _,
    setZN_from _ _⟩
  case dey => exact ⟨_, impliedInstr_eq .., impliedDone rfl rfl, rfl, rfl, rfl, byteDec_toNat _,
    setZN_from _ _⟩

/-! ## The read-modify-write shape (R250) -/

/-- Form `f` on `s` writes `r` back from the state `u`, in which the operand is read and the status byte
is `p`: what the memory shifts, INC and DEC have in common. -/
structure WritesBack (f : Form) (r p : Byte) (u s : State) : Prop where
  encoded : f.Encoded
  runs : exec f.instr s = .next (writeBack (f.base + dmaExtra s.cfg (resolve f.operand s).1)
    (resolve f.operand s).1 r u)
  cpu : u.cpu = f.writeCpu s.cpu.cyc p s
  peek : ∀ a, u.peek a = s.peek a
  quiet : ¬ readHasEffect (resolve f.operand s).1 → SameOutsideCpu s u

/-- RAM is neither a port nor in the audio/IO range (R88). -/
theorem isRam.not_readHasEffect {a : Addr} (h : isRam a) : ¬ readHasEffect a := by
  simp only [isRam, readHasEffect, isPort, isIo] at h ⊢
  omega

section
variable {f : Form} {r p : Byte} {u s : State}

/-- A write back whose bus write does not halt: that write, and the Processor of `Form.writeCpu` with Z
and N from the result. -/
theorem WritesBack.exec_running (h : WritesBack f r p u s)
    (hrun : (busWrite (resolve f.operand s).1 r u).cpu.halted = false) :
    exec f.instr s = .next { busWrite (resolve f.operand s).1 r u with
      cpu := f.writeCpu (f.base + dmaExtra s.cfg (resolve f.operand s).1) (setZN r p) s } := by
  rw [h.runs, writeBack_running hrun, State.updZN, State.setP, State.setCyc,
    busWrite_cpu_running hrun, h.cpu]
  rfl

/-- A write back to RAM completes, with the frame of `RamWritten`. -/
theorem WritesBack.ram (h : WritesBack f r p u s) (hs : s.cpu.halted = false)
    (hram : isRam (resolve f.operand s).1) :
    ∃ t, exec f.instr s = .next t ∧ RamWritten f r s t ∧ t.cpu.p = setZN r p := by
  have hrun : (busWrite (resolve f.operand s).1 r u).cpu.halted = false := by
    rw [busWrite_ram_cpu hram, h.cpu]; exact hs
  rw [h.exec_running hrun, dmaExtra_ram hram]
  exact ⟨_, rfl, ramWritten h.encoded hram (h.quiet hram.not_readHasEffect) r _, rfl⟩

/-- A write back outside RAM completes where its bus write does not halt, with the frame of
`DeviceWritten`. -/
theorem WritesBack.device (h : WritesBack f r p u s) (hram : ¬ isRam (resolve f.operand s).1)
    (hrun : (busWrite (resolve f.operand s).1 r u).cpu.halted = false) :
    ∃ t, exec f.instr s = .next t ∧ DeviceWritten f r u s t ∧ t.cpu.p = setZN r p :=
  ⟨_, h.exec_running hrun, deviceWritten h.encoded hram h.peek r _, rfl⟩

/-! ### The operand and its read -/

/-- The four operands every read-modify-write has, none of them immediate (R130). -/
def memoryOperands (b : Byte) (w : Addr) : List Operand := [.zp b, .zpx b, .abs w, .abx w]

theorem memoryOperand_not_imm {l : List Form} {b : Byte} {w : Addr}
    (hl : l.map Form.operand = memoryOperands b w) (hf : f ∈ l) (m : Byte) :
    f.operand ≠ .imm m := by
  have hmem : f.operand ∈ memoryOperands b w := hl ▸ List.mem_map_of_mem hf
  intro ho
  simp [ho, memoryOperands] at hmem

theorem readOperand_peek (o : Operand) (s : State) (a : Addr) :
    (readOperand o s).2.peek a = s.peek a :=
  ((readOperand_frame o s).peek a).trans (resolve_peek o s a)

theorem readOperand_sameOutsideCpu {o : Operand} {s : State} (h : ¬ readHasEffect (resolve o s).1) :
    SameOutsideCpu s (readOperand o s).2 := by
  rw [readOperand_quiet o s (.inr h)]
  exact resolve_sameOutsideCpu o s

/-- A memory operand that lies in plain memory reads the byte there. -/
theorem readOperand_of_peek {o : Operand} {s : State} {v : Byte} (ho : ∀ m, o ≠ .imm m)
    (hv : s.peek (resolve o s).1 = some v) : (readOperand o s).1 = v := by
  rw [readOperand_bus ho, busRead_peek ((resolve_peek o s _).trans hv)]

/-! ### The two kinds of read-modify-write -/

/-- A form whose meaning is a memory shift writes the shifted byte back, the carry written first. -/
theorem shiftForm_writesBack {g : ShiftFn}
    (h : f.Encoded ∧ exec f.instr s = shiftMem f.base f.operand g s)
    (ho : ∀ m, f.operand ≠ .imm m) :
    WritesBack f (shiftResult g f.operand s).1 (withCarry (shiftResult g f.operand s).2 s.cpu.p)
      (shiftBefore g f.operand s) s where
  encoded := h.1
  runs := by
    have hp : (readOperand f.operand s).2.cpu.p = s.cpu.p := by rw [readOperand_cpu]
    rw [h.2, shiftMem, ← readOperand_bus ho, getFlag_carry, State.putFlag, setFlag_carry, hp,
      shiftBefore, hp]
    rfl
  cpu := by rw [shiftBefore, readOperand_cpu, resolve_pgx]; rfl
  peek := readOperand_peek f.operand s
  quiet hq := (readOperand_sameOutsideCpu hq).setCpu _

/-- A form whose meaning is INC or DEC writes the new byte back, no flag written before. -/
theorem stepForm_writesBack {g : Byte → Byte}
    (h : f.Encoded ∧ exec f.instr s = stepMem f.base f.operand g s)
    (ho : ∀ m, f.operand ≠ .imm m) :
    WritesBack f (g (readOperand f.operand s).1) s.cpu.p (readOperand f.operand s).2 s where
  encoded := h.1
  runs := by rw [h.2, stepMem, ← readOperand_bus ho]
  cpu := by rw [readOperand_cpu, resolve_pgx]; rfl
  peek := readOperand_peek f.operand s
  quiet := readOperand_sameOutsideCpu

/-! ## On RAM -/

/-- A memory shift of the RAM byte `v`, by the number `n` and the displaced bit `d` that its function
gives. -/
theorem shiftForm_ram {g : ShiftFn} {v : Byte} {n : Nat} {d : Bool}
    (h : f.Encoded ∧ exec f.instr s = shiftMem f.base f.operand g s)
    (ho : ∀ m, f.operand ≠ .imm m) (hs : s.cpu.halted = false)
    (hn : (g v (s.cpu.p.getLsbD 0)).1.toNat = n) (hd : (g v (s.cpu.p.getLsbD 0)).2 = d)
    (hram : isRam (resolve f.operand s).1) (hv : s.peek (resolve f.operand s).1 = some v) :
    ∃ t r, exec f.instr s = .next t ∧ RamWritten f r s t ∧ r.toNat = n ∧
      CZNFrom s.cpu.p t.cpu.p r d := by
  obtain ⟨t, hexec, hwritten, hp⟩ := (shiftForm_writesBack h ho).ram hs hram
  rw [shiftResult, readOperand_of_peek ho hv] at hwritten hp
  exact ⟨t, _, hexec, hwritten, hn, hp ▸ hd ▸ setZN_withCarry_from _ _ _⟩

/-- INC or DEC of the RAM byte `v`, by the number `n` that its function gives. -/
theorem stepForm_ram {g : Byte → Byte} {v : Byte} {n : Nat}
    (h : f.Encoded ∧ exec f.instr s = stepMem f.base f.operand g s)
    (ho : ∀ m, f.operand ≠ .imm m) (hs : s.cpu.halted = false) (hn : (g v).toNat = n)
    (hram : isRam (resolve f.operand s).1) (hv : s.peek (resolve f.operand s).1 = some v) :
    ∃ t r, exec f.instr s = .next t ∧ RamWritten f r s t ∧ r.toNat = n ∧
      ZNFrom s.cpu.p t.cpu.p r := by
  obtain ⟨t, hexec, hwritten, hp⟩ := (stepForm_writesBack h ho).ram hs hram
  rw [readOperand_of_peek ho hv] at hwritten hp
  exact ⟨t, _, hexec, hwritten, hn, hp ▸ setZN_from _ _⟩

end

/-- Settles O16: every form is the memory shift of its function. -/
theorem shiftRam : Obligations.ShiftRam := fun b w s v hs =>
  ⟨fun f hf => shiftForm_ram (aslForms_exec b w s f hf) (memoryOperand_not_imm rfl hf) hs
    (aslFn_toNat v _) rfl,
   fun f hf => shiftForm_ram (lsrForms_exec b w s f hf) (memoryOperand_not_imm rfl hf) hs
    (lsrFn_toNat v _) rfl,
   fun f hf => shiftForm_ram (rolForms_exec b w s f hf) (memoryOperand_not_imm rfl hf) hs
    (rolFn_toNat v _) rfl,
   fun f hf => shiftForm_ram (rorForms_exec b w s f hf) (memoryOperand_not_imm rfl hf) hs
    (rorFn_toNat v _) rfl⟩

/-- Settles O17: every form is the write back of one more or one less. -/
theorem incDecRam : Obligations.IncDecRam := fun b w s v hs =>
  ⟨fun f hf => stepForm_ram (incForms_exec b w s f hf) (memoryOperand_not_imm rfl hf) hs
    (byteInc_toNat v),
   fun f hf => stepForm_ram (decForms_exec b w s f hf) (memoryOperand_not_imm rfl hf) hs
    (byteDec_toNat v)⟩

/-! ## Outside RAM -/

/-- The entries of `shiftTable` are the model's shift functions in whole numbers (R251 to R254). -/
theorem shiftTable_eq (b : Byte) (w : Addr) : shiftTable b w = [
    (aslForms b w, aslFn), (lsrForms b w, lsrFn), (rolForms b w, rolFn), (rorForms b w, rorFn)] := by
  rw [aslFn_eq, lsrFn_eq, rolFn_eq, rorFn_eq, shiftTable]

/-- Every form of the table is a memory shift and has a memory operand. -/
theorem shiftTable_writesBack (b : Byte) (w : Addr) (s : State) :
    ∀ g ∈ shiftTable b w, ∀ f ∈ g.1, WritesBack f (shiftResult g.2 f.operand s).1
      (withCarry (shiftResult g.2 f.operand s).2 s.cpu.p) (shiftBefore g.2 f.operand s) s := by
  simp only [shiftTable_eq, List.forall_mem_cons, List.not_mem_nil, false_implies, implies_true,
    and_true]
  exact ⟨fun f hf => shiftForm_writesBack (aslForms_exec b w s f hf) (memoryOperand_not_imm rfl hf),
    fun f hf => shiftForm_writesBack (lsrForms_exec b w s f hf) (memoryOperand_not_imm rfl hf),
    fun f hf => shiftForm_writesBack (rolForms_exec b w s f hf) (memoryOperand_not_imm rfl hf),
    fun f hf => shiftForm_writesBack (rorForms_exec b w s f hf) (memoryOperand_not_imm rfl hf)⟩

/-- Every form of the table is INC or DEC and has a memory operand. -/
theorem stepTable_writesBack (b : Byte) (w : Addr) (s : State) :
    ∀ g ∈ stepTable b w, ∀ f ∈ g.1, WritesBack f (g.2 (readOperand f.operand s).1) s.cpu.p
      (readOperand f.operand s).2 s := by
  simp only [stepTable, List.forall_mem_cons, List.not_mem_nil, false_implies, implies_true,
    and_true]
  exact ⟨fun f hf => stepForm_writesBack (incForms_exec b w s f hf) (memoryOperand_not_imm rfl hf),
    fun f hf => stepForm_writesBack (decForms_exec b w s f hf) (memoryOperand_not_imm rfl hf)⟩

/-- Settles O18: every form of the two tables is a write back to the device. -/
theorem rmwElsewhere : Obligations.RmwElsewhere := by
  intro b w s _
  refine ⟨fun g hg f hf hram hrun => ?shift, fun g hg f hf hram hrun => ?step⟩
  case shift =>
    obtain ⟨t, hexec, hwritten, hp⟩ := (shiftTable_writesBack b w s g hg f hf).device hram hrun
    exact ⟨t, hexec, hwritten, hp ▸ setZN_withCarry_from _ _ _⟩
  case step =>
    obtain ⟨t, hexec, hwritten, hp⟩ := (stepTable_writesBack b w s g hg f hf).device hram hrun
    exact ⟨t, hexec, hwritten, hp ▸ setZN_from _ _⟩

end Sys2Proof.Machine
end

section
/-! PROOF. Control transfer: jumps, subroutines, BRK, RTI and branches, and that a return undoes the entry
it belongs to (44_control_flow.md R271 to R284; 60_exceptions.md R535). -/

namespace Sys2Proof.Machine

/-! ## Jumps (R271) -/

/-- The second byte of a pointer is read from the page of the first (R172). -/
theorem pointerHigh_eq (ptr : Addr) : pointerHigh ptr = samePageNext ptr := by
  have hlow : (loByte ptr + 1).toNat = (ptr.toNat % 256 + 1) % 256 := by
    rw [BitVec.toNat_add, loByte_toNat]; rfl
  have hptr := ptr.isLt
  apply BitVec.eq_of_toNat_eq
  rw [pointerHigh, samePageNext, word16_toNat, hlow, hiByte_toNat, BitVec.toNat_ofNat]
  omega

/-- JMP through a pointer answers the state after the pointer's two reads, `pc` the address read. -/
theorem exec_jmpInd (w : Addr) (s : State) : exec (.jmpInd w) s = .next
    { (busRead (samePageNext w) (busRead w (advance 3 s)).2).2 with cpu := { s.cpu with
      pc := word16 (busRead w (advance 3 s)).1 (busRead (samePageNext w) (busRead w (advance 3 s)).2).1
      pgx := false, cyc := 5 } } := by
  have hcpu := (readPointer_frame w (samePageNext w) (advance 3 s)).cpu
  simp only [exec, execJmpInd, pointerHigh_eq, State.setPc, State.setCyc, hcpu]
  rfl

/-- Settles O21: the pointer's two reads keep every memory, and change nothing in plain memory. -/
theorem jumps : Obligations.Jumps := by
  intro w s
  refine ⟨rfl, rfl, rfl, _, exec_jmpInd w s, rfl, ?store, ?plain⟩
  case store => exact { (readPointer_frame w (samePageNext w) (advance 3 s)).sameStore with }
  case plain =>
    intro lo hi hlo hhi
    have hreadLo : busRead w (advance 3 s) = (lo, advance 3 s) := busRead_peek hlo
    have hreadHi : busRead (samePageNext w) (advance 3 s) = (hi, advance 3 s) := busRead_peek hhi
    rw [hreadLo, hreadHi]
    rfl

/-! ## An address on the stack (R272, R273) -/

/-- A cell of page 1 keeps its byte when another is written. -/
theorem read_write_stackCell {i j : Byte} (h : j ≠ i) (m : Memory) (d : Byte) :
    (m.write (256 + i.toNat) d).read (256 + j.toNat) = m.read (256 + j.toNat) :=
  Memory.read_write_other m d fun e => h (BitVec.eq_of_toNat_eq (Nat.add_left_cancel e))

/-- Pushing an address writes two cells of page 1, the high byte first (R272). -/
theorem pushAddr_eq (v : Addr) (s : State) : pushAddr v s = { s with
    wram := (s.wram.write (256 + s.cpu.s.toNat) (hiByte v)).write (256 + (s.cpu.s - 1).toNat) (loByte v)
    cpu := { s.cpu with s := s.cpu.s - 2 } } := by
  have hsp : s.cpu.s - 1 - 1 = s.cpu.s - 2 := by bv_omega
  simp only [pushAddr, push_eq, hsp]

/-- The two cells that hold a pushed address. -/
theorem pushAddr_read (v : Addr) (s : State) :
    (pushAddr v s).wram.read (256 + (s.cpu.s - 1).toNat) = loByte v ∧
    (pushAddr v s).wram.read (256 + s.cpu.s.toNat) = hiByte v := by
  have hne : s.cpu.s ≠ s.cpu.s - 1 := by bv_omega
  rw [pushAddr_eq]
  exact ⟨Memory.read_write_same .., (read_write_stackCell hne ..).trans (Memory.read_write_same ..)⟩

/-- Pushing an address changes those two bytes of plain memory and no other. -/
theorem peek_pushAddr (v : Addr) (s : State) (a : Addr) : (pushAddr v s).peek a =
    if sameCell (stackAddr (s.cpu.s - 1)) a then some (loByte v)
    else if sameCell (stackAddr s.cpu.s) a then some (hiByte v)
    else s.peek a := by
  have hsp : (push (hiByte v) s).cpu.s = s.cpu.s - 1 := by rw [push_eq]
  rw [pushAddr, peek_push, peek_push, hsp]

/-- Pulling an address reads two cells of page 1, the low byte first (R273). -/
theorem pullAddr_eq (s : State) : pullAddr s =
    (word16 (s.wram.read (256 + (s.cpu.s + 1).toNat)) (s.wram.read (256 + (s.cpu.s + 2).toNat)),
      s.setS (s.cpu.s + 2)) := by
  have hsp : s.cpu.s + 1 + 1 = s.cpu.s + 2 := by bv_omega
  simp only [pullAddr, pull_eq, setS_cpu_s, setS_wram, hsp]
  rfl

/-! ## Subroutines -/

/-- JSR pushes the address of its own last byte. -/
theorem exec_jsr (w : Addr) (s : State) : exec (.jsr w) s =
    .next (((pushAddr (s.cpu.pc + 2) (advance 3 s)).setPc w).setCyc 6) := by
  have hlast : s.cpu.pc + 3 - 1 = s.cpu.pc + 2 := by bv_omega
  rw [← hlast]
  rfl

/-- RTS pulls the address and adds 1. -/
theorem exec_rts (s : State) : exec .rts s = .next { s with cpu := { s.cpu with
    pc := word16 (s.wram.read (256 + (s.cpu.s + 1).toNat)) (s.wram.read (256 + (s.cpu.s + 2).toNat)) + 1
    pgx := false, cyc := 6, s := s.cpu.s + 2 } } := by
  simp only [exec, execRts, impliedInstr_eq, pullAddr_eq]
  rfl

/-- Settles O22: JSR is one push of an address, RTS one pull. -/
theorem subroutines : Obligations.Subroutines := by
  intro w s
  refine ⟨⟨_, exec_jsr w s, rfl, ?cpu, ?outside, peek_pushAddr (s.cpu.pc + 2) (advance 3 s)⟩,
    _, exec_rts s, rfl, rfl⟩
  case cpu => rw [pushAddr_eq]; rfl
  case outside => rw [pushAddr_eq]; rfl

/-! ## RTI (R274) -/

/-- RTI pulls the status byte and `pc`, and adds nothing to `pc`. -/
theorem exec_rti (s : State) : exec .rti s = .next { s with cpu := { s.cpu with
    p := pulledStatus (s.wram.read (256 + (s.cpu.s + 1).toNat))
    pc := word16 (s.wram.read (256 + (s.cpu.s + 2).toNat)) (s.wram.read (256 + (s.cpu.s + 3).toNat))
    pgx := false, cyc := 6, s := s.cpu.s + 3 } } := by
  have hsp2 : s.cpu.s + 1 + 1 = s.cpu.s + 2 := by bv_omega
  have hsp3 : s.cpu.s + 2 + 1 = s.cpu.s + 3 := by bv_omega
  rw [← hsp3, ← hsp2]
  simp only [exec, execRti, impliedInstr_eq, returnFromInterrupt_eq]
  rfl

/-- Settles O23: RTI writes registers only, and the status byte goes through `pulledStatus`. (The model's
own function has the obligation's name.) -/
theorem returnFromInterrupt_exec : Obligations.ReturnFromInterrupt := fun s =>
  ⟨rfl, _, exec_rti s, rfl, pulledStatus_bits _⟩

/-! ## Taking an interrupt (R275, R535) -/

/-- A read of the program window shows the image and has no side effect (R80). -/
theorem busRead_window {a : Addr} (h : 0x8000 ≤ a.toNat) (s : State) :
    busRead a s = (prgWin s.cfg s.mapper (a.toNat - 0x8000), s) :=
  busRead_peek (by rw [State.peek, if_neg (by omega), if_pos h])

section
variable (ret : Addr) (st : Byte) {vec : Addr} (h : 0x8000 ≤ vec.toNat) (h' : vec.toNat < 0xFFFF)
  (s : State)
include h h'

/-- Taking an interrupt is three pushes, the flag `I` and the jump through the vector. -/
theorem enterInterrupt_pushes : enterInterrupt ret st vec s = { push st (pushAddr ret s) with
    cpu := { s.cpu with
      s := s.cpu.s - 3
      p := setFlag .intDisable true s.cpu.p
      pc := word16 (busRead vec s).1 (busRead (vec + 1) s).1 } } := by
  have hsp2 : s.cpu.s - 1 - 1 = s.cpu.s - 2 := by bv_omega
  have hsp3 : s.cpu.s - 2 - 1 = s.cpu.s - 3 := by bv_omega
  have hnext : (vec + 1).toNat = vec.toNat + 1 := by bv_omega
  rw [enterInterrupt_eq ret st h h', busRead_window h, busRead_window (by omega), hnext, push_eq,
    pushAddr_eq, hsp2, hsp3]

theorem enterInterrupt_sameOutside : SameOutsideCpuAndWram s (enterInterrupt ret st vec s) := by
  rw [enterInterrupt_pushes ret st h h', push_eq, pushAddr_eq]; rfl

theorem enterInterrupt_stackFrame : StackFrame s (enterInterrupt ret st vec s) ret st := by
  intro a
  have hsp : (pushAddr ret s).cpu.s = s.cpu.s - 2 := by rw [pushAddr_eq]
  have hpush := peek_push st (pushAddr ret s) a
  rw [hsp, peek_pushAddr] at hpush
  rw [enterInterrupt_pushes ret st h h']
  exact hpush

/-- The three cells of the frame, from the last one pushed. -/
theorem enterInterrupt_read :
    (enterInterrupt ret st vec s).wram.read (256 + (s.cpu.s - 2).toNat) = st ∧
    (enterInterrupt ret st vec s).wram.read (256 + (s.cpu.s - 1).toNat) = loByte ret ∧
    (enterInterrupt ret st vec s).wram.read (256 + s.cpu.s.toNat) = hiByte ret := by
  have hsp : (pushAddr ret s).cpu.s = s.cpu.s - 2 := by rw [pushAddr_eq]
  have hlo : s.cpu.s - 1 ≠ s.cpu.s - 2 := by bv_omega
  have hhi : s.cpu.s ≠ s.cpu.s - 2 := by bv_omega
  obtain ⟨hreadLo, hreadHi⟩ := pushAddr_read ret s
  rw [enterInterrupt_pushes ret st h h', push_eq, hsp]
  exact ⟨Memory.read_write_same .., (read_write_stackCell hlo ..).trans hreadLo,
    (read_write_stackCell hhi ..).trans hreadHi⟩

end

/-- Settles O24: BRK takes an interrupt with `opaddr + 2` as its return address. -/
theorem breakInterrupt : Obligations.BreakInterrupt := by
  intro s
  have h : 0x8000 ≤ irqVector.toNat := by decide
  have h' : irqVector.toNat < 0xFFFF := by decide
  refine ⟨rfl, _, impliedInstr_eq .., ?cpu, ?flag, ?outside, ?frame⟩
  case cpu => rw [enterInterrupt_pushes _ _ h h']; rfl
  case flag =>
    rw [enterInterrupt_pushes _ _ h h']
    exact putFlag_from .intDisable true s.cpu.p
  case outside =>
    rw [enterInterrupt_sameOutside (s.cpu.pc + 2) (pushedStatus s.cpu.p) h h' (advance 1 s)]
    rfl
  case frame => exact enterInterrupt_stackFrame _ _ h h' (advance 1 s)

/-! ## Branches (R276 to R284) -/

/-- The displacement as an integer modulo 65536 (R168). -/
theorem sext16_toNat (off : Byte) : ((sext16 off).toNat : Int) = off.toInt % 65536 := by
  rw [sext16, BitVec.signExtend, BitVec.toNat_ofInt]
  exact Int.toNat_of_nonneg (Int.emod_nonneg _ (by decide))

theorem branchNext_toNat (pc : Addr) : (pc + 2).toNat = (pc.toNat + 2) % 65536 :=
  BitVec.toNat_add pc 2

/-- The target is the next instruction's address and the signed displacement, modulo 65536 (R168). -/
theorem branchTarget_toNat (pc : Addr) (off : Byte) :
    ((pc + 2 + sext16 off).toNat : Int) = ((pc.toNat : Int) + 2 + off.toInt) % 65536 := by
  have hoff := sext16_toNat off
  rw [BitVec.toNat_add, branchNext_toNat]
  omega

theorem branchInstr_taken (off : Byte) (s : State) : branchInstr true off s =
    .next { s with cpu := { s.cpu with
      pc := s.cpu.pc + 2 + sext16 off
      pgx := false
      cyc := 2 + 1 + if pageCross (s.cpu.pc + 2) (s.cpu.pc + 2 + sext16 off) then 1 else 0 } } := rfl

theorem branchInstr_notTaken (off : Byte) (s : State) : branchInstr false off s =
    .next { s with cpu := { s.cpu with pc := s.cpu.pc + 2, pgx := false, cyc := 2 } } := rfl

/-- Each branch is the branch rule under its condition (R277 to R284). -/
theorem branchTable_exec (off : Byte) (s : State) : ∀ g ∈ branchTable off s.cpu.p,
    encode g.instr = [g.opcode, off] ∧ exec g.instr s = branchInstr g.taken off s := by
  have hc : getFlag .carry s.cpu.p = s.cpu.p.getLsbD 0 := getFlag_eq ..
  have hz : getFlag .zero s.cpu.p = s.cpu.p.getLsbD 1 := getFlag_eq ..
  have hv : getFlag .overflow s.cpu.p = s.cpu.p.getLsbD 6 := getFlag_eq ..
  have hn : getFlag .negative s.cpu.p = s.cpu.p.getLsbD 7 := getFlag_eq ..
  simp only [branchTable, ← hc, ← hz, ← hv, ← hn, List.forall_mem_cons, List.not_mem_nil,
    false_implies, implies_true, and_true]
  exact ⟨⟨rfl, rfl⟩, ⟨rfl, rfl⟩, ⟨rfl, rfl⟩, ⟨rfl, rfl⟩, ⟨rfl, rfl⟩, ⟨rfl, rfl⟩, ⟨rfl, rfl⟩, rfl, rfl⟩

/-- Settles O25: the branch rule, taken or not, and the pages compared in whole numbers. -/
theorem branches : Obligations.Branches := by
  intro off s g hg
  obtain ⟨henc, hexec⟩ := branchTable_exec off s g hg
  rw [hexec]
  cases g.taken with
  | false =>
    refine ⟨_, branchInstr_notTaken off s, henc, rfl, ?_, rfl⟩
    rw [branchNext_toNat, if_neg Bool.false_ne_true, Int.add_zero]
    rfl
  | true =>
    refine ⟨_, branchInstr_taken off s, henc, rfl, branchTarget_toNat s.cpu.pc off, ?_⟩
    simp only [pageCross_eq, branchNext_toNat, decide_eq_true_eq, ite_not, if_true, Nat.add_assoc]

/-! ## Returns undo entries -/

/-- Both vectors lie in the program window (R79). -/
theorem vector_window {vec : Addr} (h : vec ∈ [nmiVector, irqVector]) :
    0x8000 ≤ vec.toNat ∧ vec.toNat < 0xFFFF := by
  simp only [List.mem_cons, List.not_mem_nil, or_false] at h
  rcases h with rfl | rfl <;> decide

/-- The status byte that comes back from an interrupt: bit 5 set, bit 4 clear (R274, R535). -/
theorem pulledStatus_interruptStatus (p : Byte) : ∀ i < 8,
    (pulledStatus (interruptStatus p)).getLsbD i =
      if i = 5 then true else if i = 4 then false else p.getLsbD i := by
  intro i hi
  rw [pulledStatus_bits _ i hi, interruptStatus_bits _ i hi]
  by_cases hi5 : i = 5
  · rw [if_pos hi5, if_pos hi5]
  by_cases hi4 : i = 4
  · rw [if_neg hi5, if_neg hi5, if_pos hi4, if_pos hi4]
  · simp only [if_neg hi5, if_neg hi4]

/-- A legal status byte comes back as it was (R24). -/
theorem pulledStatus_interruptStatus_legal {p : Byte} (h5 : p.getLsbD 5 = true)
    (h4 : p.getLsbD 4 = false) : pulledStatus (interruptStatus p) = p := by
  apply BitVec.eq_of_getLsbD_eq
  intro i hi
  rw [pulledStatus_interruptStatus p i hi]
  by_cases hi5 : i = 5
  · rw [if_pos hi5, hi5, h5]
  by_cases hi4 : i = 4
  · rw [if_neg hi5, if_pos hi4, hi4, h4]
  · rw [if_neg hi5, if_neg hi4]

/-- RTI from a just serviced interrupt pulls the frame the service pushed. -/
theorem exec_rti_service {vec : Addr} (h : 0x8000 ≤ vec.toNat) (h' : vec.toNat < 0xFFFF) (s : State) :
    exec .rti (service vec s) = .next { service vec s with cpu := { s.cpu with
      p := pulledStatus (interruptStatus s.cpu.p), pgx := false, cyc := 6 } } := by
  have hsp1 : s.cpu.s - 3 + 1 = s.cpu.s - 2 := by bv_omega
  have hsp2 : s.cpu.s - 3 + 2 = s.cpu.s - 1 := by bv_omega
  have hsp3 : s.cpu.s - 3 + 3 = s.cpu.s := by bv_omega
  have hcpu := congrArg State.cpu
    (enterInterrupt_pushes s.cpu.pc (interruptStatus s.cpu.p) h h' s)
  obtain ⟨hst, hlo, hhi⟩ := enterInterrupt_read s.cpu.pc (interruptStatus s.cpu.p) h h' s
  simp only [exec_rti, service, hcpu, hsp1, hsp2, hsp3, hst, hlo, hhi, word16_loByte_hiByte]

/-- RTS from the state a JSR answers pulls the address it pushed, and adds 1. -/
theorem exec_rts_jsr (w : Addr) (s : State) :
    ∃ u t, exec (.jsr w) s = .next u ∧ exec .rts u = .next t ∧
      t.cpu = { s.cpu with pc := s.cpu.pc + 3, pgx := false, cyc := 6 } := by
  refine ⟨_, _, exec_jsr w s, exec_rts _, ?_⟩
  have hsp1 : s.cpu.s - 2 + 1 = s.cpu.s - 1 := by bv_omega
  have hsp2 : s.cpu.s - 2 + 2 = s.cpu.s := by bv_omega
  have hpc : s.cpu.pc + 2 + 1 = s.cpu.pc + 3 := by bv_omega
  have hstart : (advance 3 s).cpu.s = s.cpu.s := rfl
  have hcpu : (pushAddr (s.cpu.pc + 2) (advance 3 s)).cpu =
      { (advance 3 s).cpu with s := s.cpu.s - 2 } := by rw [pushAddr_eq, hstart]
  obtain ⟨hlo, hhi⟩ := pushAddr_read (s.cpu.pc + 2) (advance 3 s)
  rw [hstart] at hlo hhi
  simp only [State.setCyc, State.setPc, hcpu, hsp1, hsp2, hlo, hhi, word16_loByte_hiByte, hpc]
  rfl

/-- Settles O40: RTI and RTS pull what the service and JSR pushed; a return writes no memory. -/
theorem returnsUndoCalls : Obligations.ReturnsUndoCalls := by
  intro s
  refine ⟨fun vec hvec => ?_, fun w => exec_rts_jsr w s⟩
  obtain ⟨h, h'⟩ := vector_window hvec
  exact ⟨_, exec_rti_service h h' s, rfl, pulledStatus_interruptStatus s.cpu.p,
    fun ⟨h5, h4⟩ => pulledStatus_interruptStatus_legal h5 h4,
    enterInterrupt_stackFrame _ _ h h' s⟩

end Sys2Proof.Machine
end

section
/-! PROOF. Stack, flag and no-operation instructions: each is the implied shape around one push, one pull
or one write of `P` (45_stack_flag_nop.md R300 to R311; 40_processor_step.md R162, R175, R176). -/

namespace Sys2Proof.Machine

/-! ## Pushes (R300, R301) -/

/-- An instruction that pushes the byte `d` and does nothing else writes one cell of page 1. -/
theorem pushInstr_writes {op : Byte} {i : Instr} {d : Byte} {s : State} (hi : Encoded1 op i)
    (hexec : exec i s = .next ((push d (advance 1 s)).setCyc 3)) :
    ∃ t, exec i s = .next t ∧ Encoded1 op i ∧
      t.cpu = { s.cpu with pc := s.cpu.pc + 1, pgx := false, cyc := 3, s := s.cpu.s - 1 } ∧
      SameOutsideCpuAndWram s t ∧
      ∀ a, t.peek a = if sameCell (stackAddr s.cpu.s) a then some d else s.peek a := by
  refine ⟨_, hexec, hi, ?cpu, ?outside, peek_push d (advance 1 s)⟩
  case cpu => rw [push_eq]; rfl
  case outside => rw [push_eq]; rfl

/-- Settles O26: PHA pushes `A`, PHP the status byte of `pushedStatus`. -/
theorem pushes : Obligations.Pushes := fun _ =>
  ⟨pushInstr_writes rfl rfl, pushInstr_writes rfl rfl⟩

/-! ## Pulls (R302, R303) -/

/-- PLA loads `A` with the byte pulled. -/
theorem exec_pla (s : State) : exec .pla s = .next { s with cpu := { s.cpu with
    a := s.wram.read (256 + (s.cpu.s + 1).toNat)
    p := setZN (s.wram.read (256 + (s.cpu.s + 1).toNat)) s.cpu.p
    pc := s.cpu.pc + 1, pgx := false, cyc := 4, s := s.cpu.s + 1 } } := by
  simp only [exec, execPla, impliedInstr_eq, plaEffect, pull_eq]
  rfl

/-- PLP writes `P` with the byte pulled, through `pulledStatus`. -/
theorem exec_plp (s : State) : exec .plp s = .next { s with cpu := { s.cpu with
    p := pulledStatus (s.wram.read (256 + (s.cpu.s + 1).toNat))
    pc := s.cpu.pc + 1, pgx := false, cyc := 4, s := s.cpu.s + 1 } } := by
  simp only [exec, execPlp, impliedInstr_eq, plpEffect, pull_eq]
  rfl

/-- Settles O27: each is one pull; `SetZN` gives the Z and N of PLA, `pulledStatus` the bits of PLP. -/
theorem pulls : Obligations.Pulls := fun s =>
  ⟨⟨_, exec_pla s, rfl, rfl, setZN_from _ _⟩, _, exec_plp s, rfl, rfl, pulledStatus_bits _⟩

/-! ## Flags and NOP (R304 to R311) -/

/-- Each flag instruction is the implied shape around the write of one flag, whose bit is the table's. -/
theorem flagTable_exec (s : State) : ∀ g ∈ flagTable, Encoded1 g.opcode g.instr ∧
    ∃ f, exec g.instr s = impliedInstr 2 (State.putFlag f g.value) s ∧
      ∀ p, BitFrom p (setFlag f g.value p) g.bit g.value := by
  simp only [flagTable, List.forall_mem_cons, List.not_mem_nil, false_implies, implies_true, and_true]
  refine ⟨?clc, ?sec, ?cli, ?sei, ?cld, ?sed, ?clv⟩
  case clc => exact ⟨rfl, .carry, rfl, putFlag_from .carry false⟩
  case sec => exact ⟨rfl, .carry, rfl, putFlag_from .carry true⟩
  case cli => exact ⟨rfl, .intDisable, rfl, putFlag_from .intDisable false⟩
  case sei => exact ⟨rfl, .intDisable, rfl, putFlag_from .intDisable true⟩
  case cld => exact ⟨rfl, .decimal, rfl, putFlag_from .decimal false⟩
  case sed => exact ⟨rfl, .decimal, rfl, putFlag_from .decimal true⟩
  case clv => exact ⟨rfl, .overflow, rfl, putFlag_from .overflow false⟩

/-- Settles O28: the flag instructions by their table, NOP the implied shape around no effect. -/
theorem flagOps : Obligations.FlagOps := by
  intro s
  refine ⟨fun g hg => ?flag, rfl, impliedInstr_eq ..⟩
  obtain ⟨hi, f, hexec, hbit⟩ := flagTable_exec s g hg
  exact ⟨_, hexec.trans (impliedInstr_eq ..), hi, rfl, hbit s.cpu.p⟩

end Sys2Proof.Machine
end

section
/-! PROOF. The dot as a timer: the counters walk the grid, the flags and the frame handoff come at two of
its places, and so the length of a frame (46_ppu_timing.md R320 to R332). -/

namespace Sys2Proof.Machine

/-! ## The counters (R321) -/

theorem advanceCounters_within (ren : Bool) {p : Ppu} (hd : p.dot ≠ 340) :
    p.advanceCounters ren = { p with dot := p.dot + 1 } := if_neg (by omega)

theorem advanceCounters_lineEnd (ren : Bool) {p : Ppu} (hd : p.dot = 340) (hs : p.scanline ≠ 260) :
    p.advanceCounters ren = { p with scanline := p.scanline + 1, dot := 0 } := by
  rw [Ppu.advanceCounters, if_pos (by omega), if_neg (by omega)]

theorem advanceCounters_frameEnd (ren : Bool) {p : Ppu} (hd : p.dot = 340) (hs : p.scanline = 260) :
    p.advanceCounters ren =
      { p with scanline := -1, odd := !p.odd, dot := if !p.odd && ren then 1 else 0 } := by
  rw [Ppu.advanceCounters, if_pos (by omega), if_pos (by omega)]

/-- The condition of the skipped dot, as a claim says it. -/
theorem skip_iff (s : State) : (!s.ppu.odd && s.ppu.rendering) = true ↔
    s.ppu.odd = false ∧ (s.ppu.mask.getLsbD 3 = true ∨ s.ppu.mask.getLsbD 4 = true) := by
  rw [Bool.and_eq_true, rendering_iff, Bool.not_eq_true']

theorem TickFrame.dotFrame {s t : State} (h : TickFrame s t) : DotFrame s t := by
  unfold TickFrame at h
  refine ⟨?outside, ?mapper, ?ports⟩
  case outside => rw [h]
  case mapper => rw [h]
  case ports => rw [h]; exact ⟨rfl, rfl, rfl, rfl, rfl, rfl, rfl, rfl, rfl⟩

/-- Settles O45: the frame of a dot, and the counter advance branch by branch. -/
theorem counterAdvance : Obligations.CounterAdvance := by
  intro s
  obtain ⟨hdot, hline, hodd⟩ := ppuStep_counters s
  refine ⟨(ppuStep_tick s).dotFrame, ?within, ?lineEnd, ?frameEnd⟩
  case within =>
    intro hd
    rw [hdot, hline, hodd, advanceCounters_within _ (Nat.ne_of_lt hd)]
    exact ⟨rfl, rfl, rfl⟩
  case lineEnd =>
    intro hd hs
    rw [hdot, hline, hodd, advanceCounters_lineEnd _ hd hs]
    exact ⟨rfl, rfl, rfl⟩
  case frameEnd =>
    intro hd hs
    rw [hdot, hline, hodd, advanceCounters_frameEnd _ hd hs]
    simp only [skip_iff, and_self]

/-! ## The flags and the history (R323 a, R326, R331) -/

/-- Of a dot's events only the first item of R320 reaches the flag, the line and the history. -/
theorem ppuStep_flags (s : State) :
    (ppuStep s).ppu.vblank = (flagEvents s.ppu.scanline s.ppu.dot s).ppu.vblank ∧
    (ppuStep s).ppu.nmiLine = (flagEvents s.ppu.scanline s.ppu.dot s).ppu.nmiLine ∧
    (ppuStep s).events = (flagEvents s.ppu.scanline s.ppu.dot s).events := by
  obtain ⟨a, b, -, hpixel, hpipe, rfl, -⟩ := dotEvents_parts s
  rw [ppuStep_eq, advanceCounters_keeps (·.vblank) fun _ _ _ _ => rfl,
    advanceCounters_keeps (·.nmiLine) fun _ _ _ _ => rfl, mapPpu_events, hpipe, hpixel]
  exact ⟨rfl, rfl, rfl⟩

/-- Off its two places the first item of R320 does nothing. -/
theorem flagEvents_other {sl : Int} {d : Nat} (s : State) (hclear : ¬ (sl = -1 ∧ d = 1))
    (hset : ¬ (sl = 241 ∧ d = 1)) : flagEvents sl d s = s := by
  unfold flagEvents
  by_cases hd : d = 1
  · rw [if_pos hd, if_neg fun h => hclear ⟨h, hd⟩, if_neg fun h => hset ⟨h, hd⟩]
  · rw [if_neg hd]

/-- At (-1, 1) the pipelines make at most a nametable fetch, so the sprite flags stay cleared. -/
theorem ppuStep_spriteFlags_preRender {s : State} (hs : s.ppu.scanline = -1) (hd : s.ppu.dot = 1) :
    (ppuStep s).ppu.spr0hit = false ∧ (ppuStep s).ppu.sprovf = false := by
  have hevents : dotEvents s = if s.ppu.rendering = true then
      backgroundDot 1 (s.mapPpu Ppu.clearFlags) else s.mapPpu Ppu.clearFlags := by
    have hpixel : pixelEvent (-1) 1 (flagEvents (-1) 1 s) = s.mapPpu Ppu.clearFlags := rfl
    simp only [dotEvents, hs, hd, hpixel]
    split
    · next h => rw [if_pos ⟨h, by decide, by decide⟩]; rfl
    · next h => exact if_neg fun hh => h hh.1
  rw [ppuStep_eq, advanceCounters_keeps (·.spr0hit) fun _ _ _ _ => rfl,
    advanceCounters_keeps (·.sprovf) fun _ _ _ _ => rfl, hevents]
  split
  · rw [backgroundDot_frame]; exact ⟨rfl, rfl⟩
  · exact ⟨rfl, rfl⟩

/-- Lines 240 to 260 are idle but for the event of (241, 1) (R325). -/
theorem dotEvents_idle {s : State} (hs : 240 ≤ s.ppu.scanline)
    (hset : ¬ (s.ppu.scanline = 241 ∧ s.ppu.dot = 1)) : dotEvents s = s := by
  have hpixel : ∀ u, pixelEvent s.ppu.scanline s.ppu.dot u = u := fun u => if_neg (by omega)
  have hcopy : ∀ u, verticalCopyEvent s.ppu.scanline s.ppu.dot u = u := fun u => if_neg (by omega)
  have hline : ¬ (s.ppu.rendering = true ∧ -1 ≤ s.ppu.scanline ∧ s.ppu.scanline ≤ 239) := by omega
  simp only [dotEvents, hpixel, hcopy, if_neg hline, ite_self]
  exact flagEvents_other s (by omega) hset

/-- The first item of R320 at each of its places. -/
theorem flagEvents_spec (s : State) :
    (flagEvents s.ppu.scanline s.ppu.dot s).ppu.vblank =
      (if s.ppu.scanline = -1 ∧ s.ppu.dot = 1 then false
      else if s.ppu.scanline = 241 ∧ s.ppu.dot = 1 then true else s.ppu.vblank) ∧
    (flagEvents s.ppu.scanline s.ppu.dot s).ppu.nmiLine =
      (if s.ppu.scanline = -1 ∧ s.ppu.dot = 1 then false
      else if s.ppu.scanline = 241 ∧ s.ppu.dot = 1 ∧ s.ppu.ctrl.getLsbD 7 = true then true
      else s.ppu.nmiLine) ∧
    (flagEvents s.ppu.scanline s.ppu.dot s).events =
      (if s.ppu.scanline = 241 ∧ s.ppu.dot = 1 then .frameReady s.ppu.fb :: s.events else s.events) := by
  by_cases hclear : s.ppu.scanline = -1 ∧ s.ppu.dot = 1
  · obtain ⟨hs, hd⟩ := hclear
    rw [hs, hd]
    exact ⟨rfl, rfl, rfl⟩
  · by_cases hset : s.ppu.scanline = 241 ∧ s.ppu.dot = 1
    · obtain ⟨hs, hd⟩ := hset
      have hline : (enterVblank s).ppu.nmiLine =
          if s.ppu.ctrl.getLsbD 7 = true then true else s.ppu.nmiLine := rfl
      simp only [hs, hd, show flagEvents 241 1 s = enterVblank s from rfl, hline]
      exact ⟨rfl, by simp, rfl⟩
    · have hline : ¬ (s.ppu.scanline = 241 ∧ s.ppu.dot = 1 ∧ s.ppu.ctrl.getLsbD 7 = true) :=
        fun h => hset ⟨h.1, h.2.1⟩
      rw [flagEvents_other s hclear hset]
      simp only [if_neg hclear, if_neg hset, if_neg hline, and_self]

/-- Settles O46: flag, line and history from the first item of R320 at each of its places; the two
sprite flags at (-1, 1); the idle lines. -/
theorem ppuStep_flagEvents : Obligations.FlagEvents := by
  intro s
  obtain ⟨hvblank, hline, hevents⟩ := ppuStep_flags s
  obtain ⟨hvblank', hline', hevents'⟩ := flagEvents_spec s
  refine ⟨hvblank.trans hvblank', hline.trans hline', hevents.trans hevents',
    ppuStep_spriteFlags_preRender, fun hs hset => ?idle⟩
  rw [ppuStep_eq, dotEvents_idle hs hset]
  exact congrArg (fun p => { s with ppu := p }) (advanceCounters_frame _ _)

/-! ## The frame (R321, R326, R330, R332) -/

/-- The place of the counters on the grid, in dots from (0, 0) on: (241, 1) is 82182, the last dot of a
frame, (260, 340), is 89000, and the pre-render line's (-1, 0) and (-1, 1) are -341 and -340. -/
def gridPos (s : State) : Int := 341 * s.ppu.scanline + s.ppu.dot

/-- The dots the next wrap skips (R321). -/
def skipDots (s : State) : Nat :=
  if s.ppu.odd = false ∧ (s.ppu.mask.getLsbD 3 = true ∨ s.ppu.mask.getLsbD 4 = true) then 1 else 0

theorem skipDots_le (s : State) : skipDots s ≤ 1 := by
  unfold skipDots
  split <;> decide

/-- On the grid the place is the two counters. -/
theorem gridPos_eq_iff {s : State} (hs : GridOk s) {n sl : Int} {d : Nat} (hd : d ≤ 340)
    (hn : n = 341 * sl + d) : gridPos s = n ↔ s.ppu.scanline = sl ∧ s.ppu.dot = d := by
  unfold gridPos
  omega

theorem gridPos_vblank {s : State} (hs : GridOk s) :
    gridPos s = 82182 ↔ s.ppu.scanline = 241 ∧ s.ppu.dot = 1 :=
  gridPos_eq_iff hs (by decide) (by decide)

/-- A dot moves one place on and keeps the parity; at the end of the frame it goes back to the pre-render
line, past the skipped dot, and flips the parity. -/
theorem ppuStep_gridPos {s : State} (hs : GridOk s) :
    gridPos (ppuStep s) = (if gridPos s = 89000 then -341 + (skipDots s : Int) else gridPos s + 1) ∧
    (ppuStep s).ppu.odd = (if gridPos s = 89000 then !s.ppu.odd else s.ppu.odd) := by
  obtain ⟨-, hwithin, hlineEnd, hframeEnd⟩ := counterAdvance s
  have hlast : gridPos s = 89000 ↔ s.ppu.scanline = 260 ∧ s.ppu.dot = 340 :=
    gridPos_eq_iff hs (by decide) (by decide)
  obtain ⟨hmax, -, -⟩ := hs
  simp only [hlast]
  by_cases hd : s.ppu.dot = 340
  · by_cases hl : s.ppu.scanline = 260
    · obtain ⟨hline, hodd, hdot⟩ := hframeEnd hd hl
      rw [if_pos ⟨hl, hd⟩, if_pos ⟨hl, hd⟩, gridPos, hline, hdot]
      exact ⟨rfl, hodd⟩
    · obtain ⟨hdot, hline, hodd⟩ := hlineEnd hd hl
      rw [if_neg fun h => hl h.1, if_neg fun h => hl h.1]
      exact ⟨by simp only [gridPos, hdot, hline]; omega, hodd⟩
  · obtain ⟨hdot, hline, hodd⟩ := hwithin (by omega)
    rw [if_neg fun h => hd h.2, if_neg fun h => hd h.2]
    exact ⟨by simp only [gridPos, hdot, hline]; omega, hodd⟩

/-- The vertical-blank flag is 1 at every place past (241, 1), up to (-1, 1), and 0 elsewhere. -/
def VblankSpan (s : State) : Prop :=
  s.ppu.vblank = decide (82182 < gridPos s ∨ gridPos s ≤ -340)

/-- A dot keeps that, and the dot at (241, 1) establishes it: it sets the flag. -/
theorem ppuStep_vblankSpan {s : State} (hs : GridOk s) (h : gridPos s = 82182 ∨ VblankSpan s) :
    VblankSpan (ppuStep s) := by
  have hclear : gridPos s = -340 ↔ s.ppu.scanline = -1 ∧ s.ppu.dot = 1 :=
    gridPos_eq_iff hs (by decide) (by decide)
  have hskip := skipDots_le s
  obtain ⟨hflag, -⟩ := ppuStep_flagEvents s
  unfold VblankSpan at h ⊢
  simp only [hflag, (ppuStep_gridPos hs).1, ← gridPos_vblank hs, ← hclear]
  split
  · next hpos => rw [hpos]; rfl
  · split
    · next hpos => rw [hpos]; rfl
    · next hpos =>
      rw [h.resolve_left hpos, decide_eq_decide]
      split <;> omega

/-- What holds of the state `t` that lies `n` dots after a state `s` at (241, 1), up to the next (241, 1):
after 6818 dots the counters are at (260, 340), and the next dot wraps. -/
structure FrameAt (s : State) (n : Nat) (t : State) : Prop where
  grid : GridOk t
  mask : t.ppu.mask = s.ppu.mask
  pos : gridPos t = if n ≤ 6818 then 82182 + (n : Int) else n + skipDots s - 7160
  odd : t.ppu.odd = if n ≤ 6818 then s.ppu.odd else !s.ppu.odd
  vblank : 0 < n → VblankSpan t

theorem frameAt_start {s : State} (hs : s.ppu.scanline = 241) (hd : s.ppu.dot = 1) : FrameAt s 0 s where
  grid := by omega
  mask := rfl
  pos := by rw [gridPos, hs, hd]; rfl
  odd := rfl
  vblank h := absurd h (by decide)

theorem FrameAt.next {s t : State} {n : Nat} (h : FrameAt s n t) (hn : n < 89342 - skipDots s) :
    FrameAt s (n + 1) (ppuStep t) := by
  obtain ⟨hgrid, hmask, hpos, hodd, hvblank⟩ := h
  have hskip := skipDots_le s
  obtain ⟨hpos', hodd'⟩ := ppuStep_gridPos hgrid
  have hlast : gridPos t = 89000 ↔ n = 6818 := by
    rw [hpos]
    split <;> omega
  have hmask' : (ppuStep t).ppu.mask = s.ppu.mask := by rw [← hmask, ppuStep_tick t]
  have hspan : VblankSpan (ppuStep t) := ppuStep_vblankSpan hgrid <| by
    rcases Nat.eq_zero_or_pos n with rfl | hn0
    · exact .inl hpos
    · exact .inr (hvblank hn0)
  refine ⟨ppuStep_gridOk t hgrid, hmask', ?pos, ?odd, fun _ => hspan⟩
  case pos =>
    rw [hpos']
    by_cases hwrap : n = 6818
    · have hsame : skipDots t = skipDots s := by
        simp only [skipDots, hmask, hodd, if_pos (Nat.le_of_eq hwrap)]
      rw [if_pos (hlast.mpr hwrap), if_neg (by omega), hsame]
      omega
    · rw [if_neg (mt hlast.mp hwrap), hpos]
      split <;> split <;> omega
  case odd =>
    rw [hodd', hodd]
    by_cases hwrap : n = 6818
    · rw [if_pos (hlast.mpr hwrap), if_pos (Nat.le_of_eq hwrap), if_neg (by omega)]
    · have hside : n ≤ 6818 ↔ n + 1 ≤ 6818 := by omega
      rw [if_neg (mt hlast.mp hwrap)]
      simp only [hside]

theorem iterate_succ {α : Type} (f : α → α) (n : Nat) (x : α) :
    iterate f (n + 1) x = f (iterate f n x) := by
  induction n generalizing x with
  | zero => rfl
  | succ n ih => exact ih (f x)

/-- The whole frame: every number of dots up to the next (241, 1). -/
theorem frameAt_iterate {s : State} (hs : s.ppu.scanline = 241) (hd : s.ppu.dot = 1) {n : Nat}
    (hn : n ≤ 89342 - skipDots s) : FrameAt s n (iterate ppuStep n s) := by
  induction n with
  | zero => exact frameAt_start hs hd
  | succ n ih => rw [iterate_succ]; exact (ih (by omega)).next hn

/-- Settles O47: the place, the parity and the flag after each dot of the frame. -/
theorem frameLaw : Obligations.FrameLaw := by
  intro s skip hs hd hdef
  obtain rfl : skip = skipDots s := hdef
  have hskip := skipDots_le s
  have hrun : ∀ n ≤ 89342 - skipDots s, FrameAt s n (iterate ppuStep n s) := fun _ =>
    frameAt_iterate hs hd
  have hend := hrun _ (Nat.le_refl _)
  have hpos : gridPos (iterate ppuStep (89342 - skipDots s) s) = 82182 := by
    rw [hend.pos, if_neg (by omega)]
    omega
  obtain ⟨hline, hdot⟩ := (gridPos_vblank hend.grid).mp hpos
  refine ⟨hline, hdot, hend.odd.trans (if_neg (by omega)), ?firstReturn, ?flagSet, ?flagClear⟩
  case firstReturn =>
    intro n h0 hn hplace
    have h := hrun n (Nat.le_of_lt hn)
    have hback : gridPos (iterate ppuStep n s) = 82182 := (gridPos_vblank h.grid).mpr hplace
    rw [h.pos] at hback
    split at hback <;> omega
  case flagSet =>
    intro n h0 hn
    have h := hrun n (by omega)
    refine (h.vblank h0).trans (decide_eq_true ?_)
    rw [h.pos]
    split <;> omega
  case flagClear =>
    intro n hlow hn
    have h := hrun n hn
    refine (h.vblank (by omega)).trans (decide_eq_false ?_)
    rw [h.pos, if_neg (by omega)]
    omega

end Sys2Proof.Machine
end

section
/-! PROOF. The scroll address after a dot: which of the four updates a dot makes (46_ppu_timing.md R320,
R327, R333 to R336). -/

namespace Sys2Proof.Machine

/-- The pipelines start from the scroll registers as they were. -/
theorem dotBase_scroll (s : State) : (dotBase s).ppu.v = s.ppu.v ∧ (dotBase s).ppu.t = s.ppu.t := by
  rw [dotBase_frame]
  exact ⟨rfl, rfl⟩

/-- The scroll address after a dot, over the state before it: at the dots of the vertical copy the
pipelines leave it, so at most one branch of R320 moves it. -/
theorem ppuStep_v (s : State) : (ppuStep s).ppu.v =
    if rendersLine s then
      if s.ppu.scanline = -1 ∧ 280 ≤ s.ppu.dot ∧ s.ppu.dot ≤ 304 then copyVertical s.ppu.v s.ppu.t
      else if s.ppu.dot = 257 then copyHorizontal s.ppu.v s.ppu.t
      else if fetchDot s.ppu.dot ∧ s.ppu.dot % 8 = 0 then
        if s.ppu.dot = 256 ∧ 0 ≤ s.ppu.scanline then incVertical (incHorizontal s.ppu.v)
        else incHorizontal s.ppu.v
      else s.ppu.v
    else s.ppu.v := by
  obtain ⟨hv, ht⟩ := dotBase_scroll s
  have hrender := renderEvents_v s.ppu.scanline s.ppu.dot (dotBase s)
  rw [hv, ht] at hrender
  rw [ppuStep_parts, advanceCounters_keeps (·.v) fun _ _ _ _ => rfl, verticalCopyEvent]
  by_cases hline : rendersLine s
  · rw [if_pos ((rendering_iff s).mpr hline.1), if_pos hline, if_pos hline]
    by_cases hcopy : s.ppu.scanline = -1 ∧ 280 ≤ s.ppu.dot ∧ s.ppu.dot ≤ 304
    · have hlate : ¬ (fetchDot s.ppu.dot ∧ s.ppu.dot % 8 = 0) := by omega
      rw [if_neg (by omega), if_neg hlate] at hrender
      rw [if_pos hcopy, if_pos hcopy, mapPpu_ppu, hrender, renderEvents_pipe, ht]
    · rw [if_neg hcopy, if_neg hcopy, hrender]
  · have hcopy : s.ppu.rendering = true → ¬ (s.ppu.scanline = -1 ∧ 280 ≤ s.ppu.dot ∧ s.ppu.dot ≤ 304) :=
      fun hren hc => hline ((rendersLine_iff s).mpr ⟨hren, by omega⟩)
    rw [if_neg hline, if_neg hline]
    split
    · next hren => rw [if_neg (hcopy hren), hv]
    · exact hv

/-- Settles O48: the scroll address after the dot is the update of its branch, whose fields the laws of
the four updates give. -/
theorem scrollAddress : Obligations.ScrollAddress := by
  intro s
  rw [ppuStep_v]
  refine ⟨?groupEnd, ?rowEnd, ?horizontal, ?vertical, ?other⟩
  case groupEnd =>
    intro hline hfetch h8 hnot
    have hlate : ¬ (s.ppu.scanline = -1 ∧ 280 ≤ s.ppu.dot ∧ s.ppu.dot ≤ 304) := by omega
    rw [if_pos hline, if_neg hlate, if_neg (by omega), if_pos ⟨hfetch, h8⟩, if_neg (by omega)]
    exact incHorizontal_step _
  case rowEnd =>
    intro hline hd hl
    have hfetch : fetchDot s.ppu.dot ∧ s.ppu.dot % 8 = 0 := by omega
    rw [if_pos hline, if_neg (by omega), if_neg (by omega), if_pos hfetch, if_pos ⟨hd, hl⟩]
    exact ⟨_, incHorizontal_step _, incVertical_step _⟩
  case horizontal =>
    intro hline hd
    rw [if_pos hline, if_neg (by omega), if_pos hd]
    exact copyHorizontal_fields _ _
  case vertical =>
    intro hline hl hlow hhigh
    rw [if_pos hline, if_pos ⟨hl, hlow, hhigh⟩]
    exact copyVertical_fields _ _
  case other =>
    rintro (hline | ⟨hgroup, h257, hcopy⟩)
    · exact if_neg hline
    · rw [if_neg hcopy, if_neg h257, if_neg hgroup, ite_self]

end Sys2Proof.Machine
end

section
/-! PROOF. The control, mask, status, object-table, scroll and address ports, and object DMA: which fields
of the Picture Generator each of them writes (48_ppu_registers.md R410 to R423, R430, R431). -/

namespace Sys2Proof.Machine

/-! ## A field put into the temporary address -/

/-- Where the mask keeps a field and the value put in is 0 there, the field is as before. -/
theorem insert_kept {v m f : BitVec 15} {i n : Nat} (hm : m.toNat / 2 ^ i % 2 ^ n = 2 ^ n - 1)
    (hf : f.toNat / 2 ^ i % 2 ^ n = 0) :
    ((v &&& m) ||| f).toNat / 2 ^ i % 2 ^ n = v.toNat / 2 ^ i % 2 ^ n := by
  rw [or_field, (mask_field _ _ _ _).1 hm, hf, Nat.or_zero]

/-- Where the mask clears a field, it is that of the value put in. -/
theorem insert_set {v m f : BitVec 15} {i n : Nat} (hm : m.toNat / 2 ^ i % 2 ^ n = 0) :
    ((v &&& m) ||| f).toNat / 2 ^ i % 2 ^ n = f.toNat / 2 ^ i % 2 ^ n := by
  rw [or_field, (mask_field _ _ _ _).2 hm, Nat.zero_or]

/-- The value a control write puts in: bits 1:0 of the byte at bit 10 (R412). -/
theorem ctrlField_toNat (d : Byte) :
    ((d.extractLsb' 0 2).setWidth 15 <<< 10).toNat = 1024 * (d.toNat % 4) := by
  simp [Nat.shiftLeft_eq]
  omega

/-- The value the first scroll write puts in: bits 7:3 of the byte (R422). -/
theorem scrollX_toNat (d : Byte) : ((d.extractLsb' 3 5).setWidth 15).toNat = d.toNat / 8 := by
  have := d.isLt
  simp [Nat.shiftRight_eq_div_pow]
  omega

/-- The value the second scroll write puts in: bits 2:0 at bit 12, bits 7:3 at bit 5 (R422). -/
theorem scrollY_toNat (d : Byte) : (((d.extractLsb' 0 3).setWidth 15 <<< 12) |||
    ((d.extractLsb' 3 5).setWidth 15 <<< 5)).toNat = 4096 * (d.toNat % 8) + 32 * (d.toNat / 8) := by
  have hd := d.isLt
  have hfine : ((d.extractLsb' 0 3).setWidth 15 <<< 12).toNat = 2 ^ 12 * (d.toNat % 8) := by
    simp [Nat.shiftLeft_eq]
    omega
  have hcoarse : ((d.extractLsb' 3 5).setWidth 15 <<< 5).toNat = 32 * (d.toNat / 8) := by
    simp [Nat.shiftLeft_eq, Nat.shiftRight_eq_div_pow]
    omega
  rw [BitVec.toNat_or, hfine, hcoarse, ← Nat.two_pow_add_eq_or_of_lt (by omega)]

/-- The value the first address write puts in: bits 5:0 of the byte at bit 8 (R423). -/
theorem addressHigh_toNat (d : Byte) :
    ((d.extractLsb' 0 6).setWidth 15 <<< 8).toNat = 256 * (d.toNat % 64) := by
  simp [Nat.shiftLeft_eq]
  omega

theorem addressLow_toNat (d : Byte) : (d.setWidth 15).toNat = d.toNat :=
  BitVec.toNat_setWidth_of_le (by decide)

/-! ## The fields of `t` each port writes -/

section
variable (d : Byte) (p : Ppu)

theorem writeCtrl_t : (p.writeCtrl d).t.toNat / 1024 % 4 = d.toNat % 4 ∧
    (p.writeCtrl d).t.toNat % 1024 = p.t.toNat % 1024 ∧
    (p.writeCtrl d).t.toNat / 4096 = p.t.toNat / 4096 := by
  have hf := ctrlField_toNat d
  have hold := p.t.isLt
  have hnew := (p.writeCtrl d).t.isLt
  have hset : (p.writeCtrl d).t.toNat / 2 ^ 10 % 2 ^ 2 = _ := insert_set (by decide)
  have hlow : (p.writeCtrl d).t.toNat / 2 ^ 0 % 2 ^ 10 = p.t.toNat / 2 ^ 0 % 2 ^ 10 :=
    insert_kept (by decide) (by rw [hf]; omega)
  have hhigh : (p.writeCtrl d).t.toNat / 2 ^ 12 % 2 ^ 3 = p.t.toNat / 2 ^ 12 % 2 ^ 3 :=
    insert_kept (by decide) (by rw [hf]; omega)
  rw [hf] at hset
  omega

theorem writeScroll_first (hw : p.w = false) : ∃ t, p.writeScroll d =
    { p with t := t, fineX := BitVec.ofNat 3 d.toNat, w := true } ∧
    coarseX t = d.toNat / 8 ∧ t.toNat / 32 = p.t.toNat / 32 := by
  have hfine : d.extractLsb' 0 3 = BitVec.ofNat 3 d.toNat := rfl
  refine ⟨_, by rw [Ppu.writeScroll, hw, hfine]; rfl, ?_⟩
  have hd := d.isLt
  have hf := scrollX_toNat d
  have hold := p.t.isLt
  have hnew := ((p.t &&& 0x7FE0#15) ||| (d.extractLsb' 3 5).setWidth 15).isLt
  have hset := insert_set (v := p.t) (m := 0x7FE0#15) (f := (d.extractLsb' 3 5).setWidth 15)
    (i := 0) (n := 5) (by decide)
  have hkept := insert_kept (v := p.t) (m := 0x7FE0#15) (f := (d.extractLsb' 3 5).setWidth 15)
    (i := 5) (n := 10) (by decide) (by rw [hf]; omega)
  rw [hf] at hset
  unfold coarseX
  omega

theorem writeScroll_second (hw : p.w = true) : ∃ t, p.writeScroll d =
    { p with t := t, w := false } ∧ fineY t = d.toNat % 8 ∧ coarseY t = d.toNat / 8 ∧
    coarseX t = coarseX p.t ∧ nameX t = nameX p.t ∧ nameY t = nameY p.t := by
  refine ⟨_, by rw [Ppu.writeScroll, hw]; rfl, ?_⟩
  have hcoarse : d.toNat / 8 < 32 := by have := d.isLt; omega
  have hfine : d.toNat % 8 < 8 := Nat.mod_lt _ (by decide)
  have hf := scrollY_toNat d
  rw [BitVec.or_assoc]
  generalize d.toNat / 8 = y, d.toNat % 8 = r at hcoarse hfine hf ⊢
  simp only [fineY_eq, coarseY_eq, coarseX_eq, nameX_eq, nameY_eq]
  refine ⟨?_, ?_, ?_, ?_, ?_⟩
  · rw [insert_set (by decide), hf]; omega
  · rw [insert_set (by decide), hf]; omega
  · exact insert_kept (by decide) (by rw [hf]; omega)
  · exact insert_kept (by decide) (by rw [hf]; omega)
  · exact insert_kept (by decide) (by rw [hf]; omega)

theorem writeAddress_first (hw : p.w = false) : ∃ t, p.writeAddress d =
    { p with t := t, w := true } ∧ t.toNat = 256 * (d.toNat % 64) + p.t.toNat % 256 := by
  refine ⟨_, by rw [Ppu.writeAddress, hw]; rfl, ?_⟩
  have hf := addressHigh_toNat d
  have hnew := ((p.t &&& 0x00FF#15) ||| (d.extractLsb' 0 6).setWidth 15 <<< 8).isLt
  have hset := insert_set (v := p.t) (m := 0x00FF#15)
    (f := (d.extractLsb' 0 6).setWidth 15 <<< 8) (i := 8) (n := 7) (by decide)
  have hkept := insert_kept (v := p.t) (m := 0x00FF#15)
    (f := (d.extractLsb' 0 6).setWidth 15 <<< 8) (i := 0) (n := 8) (by decide) (by rw [hf]; omega)
  rw [hf] at hset
  omega

theorem writeAddress_second (hw : p.w = true) : ∃ t, p.writeAddress d =
    { p with t := t, v := t, w := false } ∧ t.toNat = p.t.toNat / 256 * 256 + d.toNat := by
  refine ⟨_, by rw [Ppu.writeAddress, hw]; rfl, ?_⟩
  have hf := addressLow_toNat d
  have hd := d.isLt
  have hold := p.t.isLt
  have hnew := ((p.t &&& 0x7F00#15) ||| d.setWidth 15).isLt
  have hset := insert_set (v := p.t) (m := 0x7F00#15) (f := d.setWidth 15) (i := 0) (n := 8)
    (by decide)
  have hkept := insert_kept (v := p.t) (m := 0x7F00#15) (f := d.setWidth 15) (i := 8) (n := 7)
    (by decide) (by rw [hf]; omega)
  rw [hf] at hset
  omega

end

theorem mapPpu_of_eq {s : State} {f : Ppu → Ppu} {q : Ppu} (h : f s.ppu = q) :
    s.mapPpu f = { s with ppu := q } := by rw [State.mapPpu, h]

/-- Settles O55: every mirror of a port reaches the port's own operation, whose fields of `t` the lemmas
above give. -/
theorem ports : Obligations.Ports := by
  intro a d s
  refine ⟨?ctrl, ?mask, ?status, ?oamAddr, ?oamData, ?scroll, ?scroll', ?address, ?address'⟩
  case ctrl => exact fun h => ⟨_, busWrite_port h d s, writeCtrl_t d s.ppu⟩
  case mask => exact fun h => busWrite_port h d s
  case status =>
    intro h
    rw [busRead_port h]
    exact ⟨rfl, statusByte_toNat s.ppu⟩
  case oamAddr => exact fun h => busWrite_port h d s
  case oamData =>
    intro h
    rw [busRead_port h, busWrite_port h]
    exact ⟨rfl, rfl, fun k => Memory.read_write _ _ k d⟩
  case scroll =>
    intro h hw
    obtain ⟨t, ht, hfields⟩ := writeScroll_first d s.ppu hw
    exact ⟨t, (busWrite_port h d s).trans (mapPpu_of_eq ht), hfields⟩
  case scroll' =>
    intro h hw
    obtain ⟨t, ht, hfields⟩ := writeScroll_second d s.ppu hw
    exact ⟨t, (busWrite_port h d s).trans (mapPpu_of_eq ht), hfields⟩
  case address =>
    intro h hw
    obtain ⟨t, ht, hfields⟩ := writeAddress_first d s.ppu hw
    exact ⟨t, (busWrite_port h d s).trans (mapPpu_of_eq ht), hfields⟩
  case address' =>
    intro h hw
    obtain ⟨t, ht, hfields⟩ := writeAddress_second d s.ppu hw
    exact ⟨t, (busWrite_port h d s).trans (mapPpu_of_eq ht), hfields⟩

/-! ## Object DMA (R430, R431) -/

/-- The state after the first `i` bytes of object DMA. -/
def dmaUpTo (page : Byte) (s : State) (i : Nat) : State := (List.range i).foldl (dmaByte page) s

theorem dmaUpTo_succ (page : Byte) (s : State) (i : Nat) :
    dmaUpTo page s (i + 1) = dmaByte page (dmaUpTo page s i) i := by
  rw [dmaUpTo, List.range_succ, List.foldl_append, List.foldl_cons, List.foldl_nil, dmaUpTo]

theorem busWrite_dma (page : Byte) (s : State) : busWrite 0x4014 page s = dmaUpTo page s 256 := rfl

theorem dmaUpTo_oamAddr (page : Byte) (s : State) (i : Nat) :
    (dmaUpTo page s i).ppu.oamAddr = s.ppu.oamAddr := by
  induction i with
  | zero => rfl
  | succ i ih => rw [dmaUpTo_succ, dmaByte_oamAddr, ih]

/-- One byte of the copy, over the bus read's own state (R430). -/
theorem dmaUpTo_step (page : Byte) (s : State) {i : Nat} (hi : i < 256) :
    let r := busRead (BitVec.ofNat 16 (256 * page.toNat + i)) (dmaUpTo page s i)
    dmaUpTo page s (i + 1) = { r.2 with ppu := { r.2.ppu with
      oam := r.2.ppu.oam.write ((s.ppu.oamAddr.toNat + i) % 256) r.1 } } := by
  have hoam := (busRead_frame (word16 (BitVec.ofNat 8 i) page) (dmaUpTo page s i)).ppu
  rw [dmaAddr_eq page hi] at hoam
  simp only [dmaUpTo_succ, dmaByte, dmaAddr_eq page hi, State.mapPpu]
  rw [hoam, dmaUpTo_oamAddr]

/-- A page outside 0x20 to 0x5F is plain memory (R74). -/
theorem peek_plainPage {page : Byte} (h : page.toNat < 0x20 ∨ 0x60 ≤ page.toNat) (s : State) {i : Nat}
    (hi : i < 256) : ∃ b, s.peek (BitVec.ofNat 16 (256 * page.toNat + i)) = some b := by
  have hp := page.isLt
  have ha : (BitVec.ofNat 16 (256 * page.toNat + i)).toNat = 256 * page.toNat + i :=
    Nat.mod_eq_of_lt (by omega)
  unfold State.peek
  rw [ha]
  split
  · exact ⟨_, rfl⟩
  split
  · exact ⟨_, rfl⟩
  · exact ⟨_, if_pos (by omega)⟩

/-- The copy from plain memory after `n` bytes: the object table alone has changed, and holds the `n`
bytes of the page. -/
theorem dmaUpTo_plain {page : Byte} (h : page.toNat < 0x20 ∨ 0x60 ≤ page.toNat) (s : State) {n : Nat}
    (hn : n ≤ 256) :
    dmaUpTo page s n = { s with ppu := { s.ppu with oam := (dmaUpTo page s n).ppu.oam } } ∧
    ∀ i < n, s.peek (BitVec.ofNat 16 (256 * page.toNat + i)) =
      some ((dmaUpTo page s n).ppu.oam.read ((s.ppu.oamAddr.toNat + i) % 256)) := by
  induction n with
  | zero => exact ⟨rfl, fun i hi => absurd hi (Nat.not_lt_zero i)⟩
  | succ n ih =>
    obtain ⟨hframe, hbytes⟩ := ih (by omega)
    obtain ⟨b, hb⟩ := peek_plainPage h s (i := n) (by omega)
    have hread : busRead (BitVec.ofNat 16 (256 * page.toNat + n)) (dmaUpTo page s n) =
        (b, dmaUpTo page s n) := busRead_peek (by rw [hframe]; exact hb)
    have hstep := dmaUpTo_step page s (i := n) (by omega)
    simp only [hread] at hstep
    rw [hstep]
    refine ⟨by rw [hframe], fun i hi => ?_⟩
    show _ = some (Memory.read (Memory.write _ _ _) _)
    rw [Memory.read_write]
    rcases Nat.lt_succ_iff_lt_or_eq.mp hi with hlt | rfl
    · rw [if_neg (by omega)]; exact hbytes i hlt
    · rw [if_pos rfl]; exact hb

/-- Settles O57: the copy is 256 steps of one bus read and one store each. -/
theorem objectDma_copies : Obligations.ObjectDma := by
  intro page s
  refine ⟨⟨dmaUpTo page s, rfl, rfl, fun i hi => dmaUpTo_step page s hi⟩, ?cpu, ?oamAddr,
    fun h => dmaUpTo_plain h s (Nat.le_refl 256)⟩
  case cpu => exact busWrite_cpu_low (by decide) page s
  case oamAddr => exact dmaUpTo_oamAddr page s 256

end Sys2Proof.Machine
end

section
/-! PROOF. The scanline counter: one advance by its rule, and the period of N + 1 advances after a reload
from a latch of N (49_mapper_bus.md R455, R492, R493). -/

namespace Sys2Proof.Machine

theorem advanceCounter_other {c : Config} (hv : c.variant ≠ .scanline) (m : Mapper) :
    advanceCounter c m = m := by
  unfold advanceCounter
  split
  · rfl
  · rfl
  · next h => exact absurd h hv

theorem advanceCounter_scanline {c : Config} (hv : c.variant = .scanline) (m : Mapper) :
    advanceCounter c m = advanceScanCounter m := by simp only [advanceCounter, hv]

/-- An advance that reloads: at a counter of 0 or on request (R492). -/
theorem advanceScanCounter_reload {m : Mapper} (h : m.scan.irqCounter = 0 ∨ m.scan.irqReload = true) :
    advanceScanCounter m = { m with
      scan := { m.scan with irqCounter := m.scan.irqLatch, irqReload := false }
      irqPending := m.irqPending || (m.scan.irqLatch == 0 && m.scan.irqEnable) } := by
  simp only [advanceScanCounter, if_pos h]

/-- An advance that counts down (R492). -/
theorem advanceScanCounter_count {m : Mapper} (h0 : m.scan.irqCounter ≠ 0)
    (hr : m.scan.irqReload = false) : advanceScanCounter m = { m with
      scan := { m.scan with irqCounter := m.scan.irqCounter - 1 }
      irqPending := m.irqPending || (m.scan.irqCounter - 1 == 0 && m.scan.irqEnable) } := by
  have h : ¬ (m.scan.irqCounter = 0 ∨ m.scan.irqReload = true) :=
    not_or.mpr ⟨h0, by rw [hr]; exact Bool.false_ne_true⟩
  simp only [advanceScanCounter, if_neg h]

theorem counter_pred_toNat {n : Byte} (h : n ≠ 0) : (n - 1).toNat = n.toNat - 1 := by bv_omega

/-- A remainder grows by one until it wraps. -/
theorem add_one_mod_succ (k n : Nat) :
    (k + 1) % (n + 1) = if k % (n + 1) = n then 0 else k % (n + 1) + 1 := by
  have hlt : k % (n + 1) < n + 1 := Nat.mod_lt _ (Nat.succ_pos n)
  rw [← Nat.mod_add_mod]
  split
  · next h => rw [h, Nat.mod_self]
  · exact Nat.mod_eq_of_lt (by omega)

/-- The counter after `k + 1` advances from `m`, the first of them a reload from a latch of N: it has
counted `k` modulo N + 1 down from N, and the line is up once it has been at 0. -/
structure Counted (m : Mapper) (k : Nat) (t : Mapper) : Prop where
  latch : t.scan.irqLatch = m.scan.irqLatch
  enable : t.scan.irqEnable = m.scan.irqEnable
  counter : t.scan.irqCounter.toNat = m.scan.irqLatch.toNat - k % (m.scan.irqLatch.toNat + 1)
  reload : t.scan.irqReload = false
  pending : t.irqPending = (m.irqPending || (m.scan.irqEnable && decide (m.scan.irqLatch.toNat ≤ k)))

theorem counted_reload {m : Mapper} (h : m.scan.irqCounter = 0 ∨ m.scan.irqReload = true) :
    Counted m 0 (advanceScanCounter m) := by
  rw [advanceScanCounter_reload h]
  have hzero : (m.scan.irqLatch == 0) = decide (m.scan.irqLatch.toNat ≤ 0) := by
    rw [Bool.eq_iff_iff, beq_iff_eq, decide_eq_true_eq, Nat.le_zero, ← BitVec.toNat_inj]
    rfl
  exact ⟨rfl, rfl, by simp, rfl, by rw [hzero, Bool.and_comm]⟩

/-- One more advance: at 0 the counter reloads, and otherwise it counts down. -/
theorem Counted.next {m t : Mapper} {k : Nat} (h : Counted m k t) :
    Counted m (k + 1) (advanceScanCounter t) := by
  have hlt : k % (m.scan.irqLatch.toNat + 1) < m.scan.irqLatch.toNat + 1 :=
    Nat.mod_lt _ (Nat.succ_pos _)
  have hle := Nat.mod_le k (m.scan.irqLatch.toNat + 1)
  have hmod := add_one_mod_succ k m.scan.irqLatch.toNat
  by_cases h0 : t.scan.irqCounter = 0
  · have hcount := h.counter
    rw [h0] at hcount
    have hwrap : k % (m.scan.irqLatch.toNat + 1) = m.scan.irqLatch.toNat := by
      simp at hcount; omega
    rw [if_pos hwrap] at hmod
    rw [advanceScanCounter_reload (.inl h0)]
    have hup : m.scan.irqLatch.toNat ≤ k := by omega
    refine ⟨h.latch, h.enable, by rw [hmod]; exact congrArg BitVec.toNat h.latch, rfl, ?_⟩
    show (t.irqPending || (t.scan.irqLatch == 0 && t.scan.irqEnable)) = _
    rw [h.pending, h.enable, decide_eq_true hup, decide_eq_true (Nat.le_succ_of_le hup)]
    cases m.irqPending <;> cases m.scan.irqEnable <;> simp
  · have hpos : t.scan.irqCounter.toNat ≠ 0 := fun hz => h0 (BitVec.eq_of_toNat_eq hz)
    have hcount := h.counter
    rw [if_neg (by omega)] at hmod
    rw [advanceScanCounter_count h0 h.reload]
    have hpred := counter_pred_toNat h0
    refine ⟨h.latch, h.enable, ?_, h.reload, ?_⟩
    · show (t.scan.irqCounter - 1).toNat = _
      omega
    · show (t.irqPending || (t.scan.irqCounter - 1 == 0 && t.scan.irqEnable)) = _
      have hzero : (t.scan.irqCounter - 1 == 0) =
          decide (k % (m.scan.irqLatch.toNat + 1) + 1 = m.scan.irqLatch.toNat) := by
        rw [Bool.eq_iff_iff, beq_iff_eq, decide_eq_true_eq, ← BitVec.toNat_inj, hpred]
        show _ = 0 ↔ _
        omega
      have hup : decide (m.scan.irqLatch.toNat ≤ k + 1) = (decide (m.scan.irqLatch.toNat ≤ k) ||
          decide (k % (m.scan.irqLatch.toNat + 1) + 1 = m.scan.irqLatch.toNat)) := by
        have hsmall : m.scan.irqLatch.toNat = k + 1 → k % (m.scan.irqLatch.toNat + 1) = k :=
          fun he => Nat.mod_eq_of_lt (by omega)
        rw [Bool.eq_iff_iff, Bool.or_eq_true, decide_eq_true_eq, decide_eq_true_eq, decide_eq_true_eq]
        omega
      rw [h.pending, h.enable, hzero, hup, Bool.or_assoc, Bool.and_or_distrib_left,
        Bool.and_comm _ m.scan.irqEnable]

theorem counted_iterate {c : Config} (hv : c.variant = .scanline) {m : Mapper}
    (h : m.scan.irqCounter = 0 ∨ m.scan.irqReload = true) (k : Nat) :
    Counted m k (iterate (advanceCounter c) (k + 1) m) := by
  induction k with
  | zero =>
    rw [iterate_succ, advanceCounter_scanline hv]
    exact counted_reload h
  | succ k ih =>
    rw [iterate_succ, advanceCounter_scanline hv]
    exact ih.next

/-- Settles O54: one advance by its rule, and the count after every number of advances. -/
theorem counterPeriod : Obligations.CounterPeriod := by
  intro c m
  refine ⟨fun hv => advanceCounter_other hv m, fun hv h0 hr => ?count, fun hv h k => ?period⟩
  case count =>
    have hone : (m.scan.irqCounter - 1 == 0) = decide (m.scan.irqCounter = 1) := by
      rw [Bool.eq_iff_iff, beq_iff_eq, decide_eq_true_eq]
      exact BitVec.sub_eq_iff_eq_add.trans (by rw [show (0 : Byte) + 1 = 1 from rfl])
    rw [advanceCounter_scanline hv, advanceScanCounter_count h0 hr, hone]
    exact ⟨counter_pred_toNat h0, rfl⟩
  case period =>
    have hk := counted_iterate hv h k
    exact ⟨hk.counter, hk.reload, hk.pending⟩

end Sys2Proof.Machine
end

section
/-! PROOF. The Mapper's register writes: the Serial variant's ignored, reset and shift writes and the run of
five, the Scanline variant's eight registers, the Fixed variant's none (49_mapper_bus.md R457, R461, R470
to R474, R480 to R486). -/

namespace Sys2Proof.Machine

/-! ## The Serial variant -/

/-- The shift register after a shift write (R473). -/
def shiftIn (d : Byte) (r : BitVec 5) : BitVec 5 := (r >>> 1) ||| (bit 5 d[0] <<< 4)

theorem shiftIn_toNat (d : Byte) (r : BitVec 5) :
    (shiftIn d r).toNat = r.toNat / 2 + 16 * (d.getLsbD 0).toNat := shiftRegister_toNat r _

/-- The Mapper with the Serial shift register, its count and the write time replaced. -/
def Mapper.withShift (r : BitVec 5) (k n : Nat) (m : Mapper) : Mapper :=
  { m with serial := { m.serial with sr := r, srCount := k, lastWrite := some n } }

section
variable {s : State} (hv : s.cfg.variant = .serial) {a : Addr} (ha : 0x8000 ≤ a.toNat) {d : Byte}
include hv ha

theorem busWrite_serial : busWrite a d s = serialWrite a d s := by
  rw [busWrite_window ha, writeRegister, hv]

/-- A write too soon after the last updates the write time only (R471). -/
theorem busWrite_serial_ignored (hsoon : tooSoon s) : busWrite a d s = s.setMapper
    { s.mapper with serial := { s.mapper.serial with lastWrite := some s.stepCount } } := by
  rw [busWrite_serial hv ha, serialWrite, if_pos ((serialIgnores_iff s).mpr hsoon)]

/-- A write with bit 7 set resets the shift register and forces layout 3, where the banks stay in range
(R472, R457). -/
theorem busWrite_serial_reset (hspaced : ¬ tooSoon s) (h7 : d.getLsbD 7 = true) :
    Committed a d { s.mapper with serial := { s.mapper.serial with
        sr := 0, srCount := 0, control := s.mapper.serial.control ||| 0x0C
        lastWrite := some s.stepCount } }
      { s with mapper := { s.mapper with serial := { s.mapper.serial with
        lastWrite := some s.stepCount } } } (busWrite a d s) := by
  rw [busWrite_serial hv ha, serialWrite, if_neg (mt (serialIgnores_iff s).mp hspaced), if_pos (show d[7] = true from h7)]
  exact commitBanks_committed

/-- A write with bit 7 clear is a shift write (R473). -/
theorem busWrite_serial_shift (hspaced : ¬ tooSoon s) (h7 : d.getLsbD 7 = false) :
    busWrite a d s = serialShift a d (s.setMapper { s.mapper with
      serial := { s.mapper.serial with lastWrite := some s.stepCount } }) := by
  rw [busWrite_serial hv ha, serialWrite, if_neg (mt (serialIgnores_iff s).mp hspaced),
    if_neg (show ¬ d[7] = true from Bool.eq_false_iff.mp h7)]

/-- A shift write below the fifth brings bit 0 in at the top (R473). -/
theorem busWrite_serial_below (hspaced : ¬ tooSoon s) (h7 : d.getLsbD 7 = false)
    (hcount : s.mapper.serial.srCount < 4) : busWrite a d s = s.setMapper
      (s.mapper.withShift (shiftIn d s.mapper.serial.sr) (s.mapper.serial.srCount + 1) s.stepCount) := by
  rw [busWrite_serial_shift hv ha hspaced h7]
  exact if_neg (show ¬ s.mapper.serial.srCount + 1 = 5 by omega)

/-- The fifth shift write empties the shift register and commits what it would hold (R473, R457). -/
theorem busWrite_serial_fifth (hspaced : ¬ tooSoon s) (h7 : d.getLsbD 7 = false)
    (hcount : s.mapper.serial.srCount = 4) : Committed a d
      (serialTarget s.cfg a (shiftIn d s.mapper.serial.sr) (s.mapper.withShift 0 0 s.stepCount))
      { s with mapper := s.mapper.withShift 0 0 s.stepCount } (busWrite a d s) := by
  have hshift : serialShift a d (s.setMapper { s.mapper with
      serial := { s.mapper.serial with lastWrite := some s.stepCount } }) =
      commitBanks a d (s.mapper.withShift 0 0 s.stepCount)
        (serialCommitted s.cfg a (shiftIn d s.mapper.serial.sr) (s.mapper.withShift 0 0 s.stepCount))
        (s.setMapper { s.mapper with
          serial := { s.mapper.serial with lastWrite := some s.stepCount } }) :=
    if_pos (show s.mapper.serial.srCount + 1 = 5 by omega)
  rw [busWrite_serial_shift hv ha hspaced h7, hshift, ← serialCommitted_eq ha]
  exact commitBanks_committed

end

/-! ### The run of five -/

/-- `s` at step `n`, the last write made at that step, with `k` bits in the shift register. -/
def State.shifted (n : Nat) (r : BitVec 5) (k : Nat) (s : State) : State :=
  { s with stepCount := n, mapper := s.mapper.withShift r k n }

/-- After a write at step `n`, one at step `n'` with the spacing between them is not too soon (R471). -/
theorem shifted_not_tooSoon {s : State} {r : BitVec 5} {k n n' : Nat}
    (h : n + s.cfg.serialMinSpacing ≤ n') : ¬ tooSoon { s.shifted n r k with stepCount := n' } := by
  rintro ⟨j, hj, hsoon⟩
  obtain rfl : n = j := Option.some.inj hj
  exact absurd hsoon (Nat.not_lt.mpr h)

section
variable {s : State} (hv : s.cfg.variant = .serial) {n n' : Nat} {a : Addr} (ha : 0x8000 ≤ a.toNat)
  {d : Byte} (h7 : d.getLsbD 7 = false)
include hv ha h7

theorem storeAt_first (hspaced : ¬ tooSoon { s with stepCount := n })
    (hcount : s.mapper.serial.srCount = 0) :
    storeAt s (n, a, d) = s.shifted n (shiftIn d s.mapper.serial.sr) 1 := by
  have h := busWrite_serial_below (s := { s with stepCount := n }) hv ha hspaced h7
    (show s.mapper.serial.srCount < 4 by omega)
  rw [State.setMapper, hcount] at h
  exact h

theorem storeAt_next (h : n + s.cfg.serialMinSpacing ≤ n') {r : BitVec 5} {k : Nat} (hk : k < 4) :
    storeAt (s.shifted n r k) (n', a, d) = s.shifted n' (shiftIn d r) (k + 1) :=
  busWrite_serial_below (s := { s.shifted n r k with stepCount := n' }) hv ha
    (shifted_not_tooSoon h) h7 hk

theorem storeAt_fifth (h : n + s.cfg.serialMinSpacing ≤ n') {r : BitVec 5} : Committed a d
    (serialTarget s.cfg a (shiftIn d r) (s.mapper.withShift 0 0 n')) (s.shifted n' 0 0)
    (storeAt (s.shifted n r 4) (n', a, d)) :=
  busWrite_serial_fifth (s := { s.shifted n r 4 with stepCount := n' }) hv ha
    (shifted_not_tooSoon h) h7 rfl

end

/-- Five shifts replace the whole register: the bits come in lowest first (R473). -/
theorem shiftIn_five (d1 d2 d3 d4 d5 : Byte) (r : BitVec 5) :
    shiftIn d5 (shiftIn d4 (shiftIn d3 (shiftIn d2 (shiftIn d1 r)))) = BitVec.ofNat 5
      ((d1.getLsbD 0).toNat + 2 * (d2.getLsbD 0).toNat + 4 * (d3.getLsbD 0).toNat +
        8 * (d4.getLsbD 0).toNat + 16 * (d5.getLsbD 0).toNat) := by
  have hr := r.isLt
  have hbit : ∀ b : Bool, b.toNat ≤ 1 := Bool.toNat_le
  have h1 := hbit (d1.getLsbD 0)
  have h2 := hbit (d2.getLsbD 0)
  have h3 := hbit (d3.getLsbD 0)
  have h4 := hbit (d4.getLsbD 0)
  have h5 := hbit (d5.getLsbD 0)
  apply BitVec.eq_of_toNat_eq
  rw [BitVec.toNat_ofNat]
  simp only [shiftIn_toNat]
  omega

/-- Settles O58: each kind of write by its own lemma; the five stores are four shifts and the fifth. -/
theorem serialWrites : Obligations.SerialWrites := by
  intro s hv hrun
  refine ⟨fun a d ha hsoon => ?ignored, fun a d ha hspaced h7 => ⟨fun hbanks => ?running, ?reset⟩,
    fun a d ha hspaced h7 hcount => ?below, ?five⟩
  case ignored => exact busWrite_serial_ignored hv ha hsoon
  case reset => exact busWrite_serial_reset hv ha hspaced h7
  case running =>
    rcases busWrite_serial_reset hv ha hspaced h7 with ⟨-, h⟩ | ⟨hfail, -⟩
    · rw [h]; exact hrun
    · exact absurd (reset_inRange hv hbanks 0 (some s.stepCount)) hfail
  case below =>
    exact ⟨shiftIn d s.mapper.serial.sr, shiftIn_toNat d _, busWrite_serial_below hv ha hspaced h7 hcount⟩
  case five =>
    intro n1 n2 n3 n4 n5 a1 a2 a3 a4 a5 d1 d2 d3 d4 d5 val m hcount hspaced h2 h3 h4 h5 ha hd hval hm
    simp only [List.forall_mem_cons, List.not_mem_nil, false_implies, implies_true, and_true] at ha hd
    obtain ⟨ha1, ha2, ha3, ha4, ha5⟩ := ha
    obtain ⟨hd1, hd2, hd3, hd4, hd5⟩ := hd
    subst hval hm
    simp only [List.foldl_cons, List.foldl_nil]
    rw [storeAt_first hv ha1 hd1 hspaced hcount, storeAt_next hv ha2 hd2 h2 (by decide),
      storeAt_next hv ha3 hd3 h3 (by decide), storeAt_next hv ha4 hd4 h4 (by decide),
      ← shiftIn_five d1 d2 d3 d4 d5 s.mapper.serial.sr]
    exact storeAt_fifth hv ha5 hd5 h5

end Sys2Proof.Machine
end

section
/-! PROOF. The Scanline variant's eight registers, by address range and address bit 0; the Fixed variant
discards the write (49_mapper_bus.md R461, R480 to R486). -/

namespace Sys2Proof.Machine

theorem addressBit0 (a : Addr) : a[0] = decide (a.toNat % 2 = 1) := by
  rw [← BitVec.getLsbD_eq_getElem (by decide), BitVec.getLsbD, Nat.testBit_zero]

/-- The range of a register write: 0 for 0x8000, 1 for 0xA000, 2 for 0xC000, 3 for 0xE000 (R481). -/
theorem registerRange {a : Addr} {k : Nat} (hlow : 0x8000 + 0x2000 * k ≤ a.toNat)
    (hhigh : a.toNat < 0xA000 + 0x2000 * k) : (a.extractLsb' 13 2).toNat = k := by
  have ha := a.isLt
  rw [BitVec.extractLsb'_toNat, Nat.shiftRight_eq_div_pow]
  omega

/-- The register a bank-data write goes to, `bank_select[2:0]` (R482). -/
theorem bankRegister_eq (v : Byte) : (v.extractLsb' 0 3).toNat = v.toNat % 8 := by
  simp [BitVec.extractLsb'_toNat]

/-- The mirroring write under and without four-screen (R484). -/
theorem scanMirrorWrite_eq (c : Config) (d : Byte) (m : Mapper) : scanMirrorWrite c d m = { m with
    mirror := (if c.fourScreen then m.mirror
      else if d.getLsbD 0 = true then Mirror.horizontal else Mirror.vertical) } := by
  unfold scanMirrorWrite
  cases c.fourScreen <;> rfl

/-- Settles O59: each range and address bit 0 select one branch of the write. -/
theorem scanlineRegisters : Obligations.ScanlineRegisters := by
  intro a d s ha
  have hwrite := busWrite_window ha d s
  have hlt := a.isLt
  refine ⟨fun hv => by rw [hwrite, writeRegister, hv], fun hv => ?_⟩
  have heven : a.toNat % 2 = 0 → a[0] = false := fun h => by rw [addressBit0]; simp [h]
  have hodd : a.toNat % 2 = 1 → a[0] = true := fun h => by rw [addressBit0]; simp [h]
  rw [hwrite, writeRegister, hv]
  refine ⟨?select, ?data, ?mirror, ?protect, ?latch, ?reload, ?disable, ?enable⟩
  case select =>
    intro h h0
    simp only [scanWrite, registerRange (k := 0) ha h, heven h0]
    exact commitBanks_committed
  case data =>
    intro h h1
    simp only [scanWrite, registerRange (k := 0) ha h, hodd h1]
    refine ⟨_, fun i => ?_, commitBanks_committed⟩
    rw [← bankRegister_eq]
    exact (Vector.getElem_set (s.mapper.scan.bankSelect.extractLsb' 0 3).isLt i.isLt).trans
      (ite_congr (propext eq_comm) (fun _ => rfl) fun _ => rfl)
  case mirror =>
    intro h h' h0
    simp only [scanWrite, registerRange (k := 1) h h', heven h0, scanMirrorWrite_eq, State.setMapper]
  case protect =>
    intro h h' h1
    simp only [scanWrite, registerRange (k := 1) h h', hodd h1, State.setMapper]
  case latch =>
    intro h h' h0
    simp only [scanWrite, registerRange (k := 2) h h', heven h0, State.setMapper]
  case reload =>
    intro h h' h1
    simp only [scanWrite, registerRange (k := 2) h h', hodd h1, State.setMapper]
  case disable =>
    intro h h0
    simp only [scanWrite, registerRange (k := 3) h (by omega), heven h0, State.setMapper, clearInterrupt]
  case enable =>
    intro h h1
    simp only [scanWrite, registerRange (k := 3) h (by omega), hodd h1, State.setMapper]

end Sys2Proof.Machine
end

section
/-! PROOF. Bank reduction and the mapped windows: which banks the fixed slots show, and that while no
region fails every offset of the windows lies inside the image (49_mapper_bus.md R456, R457, R462, R475,
R476, R490, R491). -/

namespace Sys2Proof.Machine

/-- What the loader guarantees of the sizes (R458). -/
theorem wellFormed_sizes {c : Config} (h : c.wellFormed = true) :
    1 ≤ c.prgBanks16 ∧ variantSizes c = true := by
  simp only [Config.wellFormed, Bool.and_eq_true, decide_eq_true_eq] at h
  exact ⟨h.1.1.1.1, h.1.2⟩

/-- What a window offset inside an image of `n` banks of `size` bytes is: it keeps the offset's low
bits. -/
theorem bankOffset_inside {size bank n i : Nat} (hb : bank < n) (hs : 0 < size) :
    size * bank + i % size < size * n ∧ (size * bank + i % size) % size = i % size := by
  have hlow := Nat.mod_lt i hs
  refine ⟨?_, by rw [Nat.mul_add_mod, Nat.mod_mod]⟩
  calc size * bank + i % size < size * (bank + 1) := by rw [Nat.mul_succ]; omega
    _ ≤ size * n := Nat.mul_le_mul_left size hb

theorem scanChrSlot_lt (r : ScanlineRegs) {k : Nat} (hk : k < 8) : scanChrSlot r k < 8 := by
  unfold scanChrSlot
  split
  · exact Nat.xor_lt_two_pow (n := 3) hk (by decide)
  · exact hk

theorem serialFixedBank_lt (r : SerialRegs) {n : Nat} (hn : 1 ≤ n) : serialFixedBank r n < n := by
  unfold serialFixedBank
  split <;> omega

theorem scanFixedBank_lt (k : Nat) {n : Nat} (hn : 1 ≤ n) : scanFixedBank k n < n := by
  unfold scanFixedBank
  split <;> omega

/-! ## Where no region fails, every bank shown is inside the image -/

section
variable {c : Config} {m : Mapper} (h : failingBanks c m = [])
include h

theorem serialPrgBank_inRange (hv : c.variant = .serial) {k b : Nat} (hk : k < 2)
    (hb : serialPrgBank m.serial k = some b) : maskBank b c.prgBanks16 < c.prgBanks16 := by
  refine maskBank_lt h (b, c.prgBanks16) ?_
  simp only [checkedRegions, hv]
  exact List.mem_append_left _
    (List.mem_filterMap.mpr ⟨k, List.mem_range.mpr hk, by rw [hb]; rfl⟩)

theorem serialChrBank_inRange (hv : c.variant = .serial) (hc : 0 < c.chrBanks8) {k : Nat} (hk : k < 2) :
    maskBank (serialChrBank m.serial k) (2 * c.chrBanks8) < 2 * c.chrBanks8 := by
  refine maskBank_lt h (serialChrBank m.serial k, 2 * c.chrBanks8) ?_
  simp only [checkedRegions, hv, if_pos hc]
  exact List.mem_append_right _ (List.mem_map.mpr ⟨k, List.mem_range.mpr hk, rfl⟩)

theorem scanPrgBank_inRange (hv : c.variant = .scanline) {k b : Nat} (hk : k < 4)
    (hb : scanPrgBank m.scan k = some b) : maskBank b (2 * c.prgBanks16) < 2 * c.prgBanks16 := by
  refine maskBank_lt h (b, 2 * c.prgBanks16) ?_
  simp only [checkedRegions, hv]
  exact List.mem_append_left _
    (List.mem_filterMap.mpr ⟨k, List.mem_range.mpr hk, by rw [hb]; rfl⟩)

theorem scanChrBank_inRange (hv : c.variant = .scanline) (hc : 0 < c.chrBanks8) {k : Nat} (hk : k < 8) :
    maskBank (scanChrBank m.scan k) (8 * c.chrBanks8) < 8 * c.chrBanks8 := by
  refine maskBank_lt h (scanChrBank m.scan k, 8 * c.chrBanks8) ?_
  simp only [checkedRegions, hv, if_pos hc]
  exact List.mem_append_right _ (List.mem_map.mpr ⟨k, List.mem_range.mpr hk, rfl⟩)

/-- Every offset of the program window lies inside the image and keeps its low bits. -/
theorem prgOffset_inside (hw : c.wellFormed = true) {i : Nat} (hi : i < 32768) :
    prgOffset c m i < 16384 * c.prgBanks16 ∧ prgOffset c m i % 8192 = i % 8192 := by
  obtain ⟨h1, hsizes⟩ := wellFormed_sizes hw
  unfold prgOffset
  cases hv : c.variant with
  | fixed =>
    simp only [variantSizes, hv, Bool.and_eq_true, decide_eq_true_eq] at hsizes
    simp only
    split <;> omega
  | serial =>
    have key : ∀ bank < c.prgBanks16, 16384 * bank + i % 16384 < 16384 * c.prgBanks16 ∧
        (16384 * bank + i % 16384) % 8192 = i % 8192 := fun bank hb =>
      ⟨(bankOffset_inside hb (by decide)).1, by omega⟩
    refine key _ ?_
    split
    · next b hb => exact serialPrgBank_inRange h hv (Nat.mod_lt _ (by decide)) hb
    · exact serialFixedBank_lt m.serial h1
  | scanline =>
    have key : ∀ bank < 2 * c.prgBanks16, 8192 * bank + i % 8192 < 16384 * c.prgBanks16 ∧
        (8192 * bank + i % 8192) % 8192 = i % 8192 := by
      intro bank hb
      have := bankOffset_inside (i := i) hb (show 0 < 8192 by decide)
      exact ⟨by omega, this.2⟩
    refine key _ ?_
    split
    · next b hb => exact scanPrgBank_inRange h hv (Nat.mod_lt _ (by decide)) hb
    · exact scanFixedBank_lt _ (by omega)

/-- Every offset of the pattern window lies inside the image and keeps its low bits. -/
theorem chrOffset_inside (hc : 0 < c.chrBanks8) {j : Nat} (hj : j < 8192) :
    chrOffset c m j < 8192 * c.chrBanks8 ∧ chrOffset c m j % 1024 = j % 1024 := by
  unfold chrOffset
  cases hv : c.variant with
  | fixed => exact ⟨by simp only; omega, rfl⟩
  | serial =>
    have hb := serialChrBank_inRange h hv hc (k := j / 4096 % 2) (Nat.mod_lt _ (by decide))
    have hin := bankOffset_inside (i := j) hb (show 0 < 4096 by decide)
    exact ⟨by simp only; omega, by simp only; omega⟩
  | scanline =>
    have hb := scanChrBank_inRange h hv hc
      (scanChrSlot_lt m.scan (k := j / 1024 % 8) (Nat.mod_lt _ (by decide)))
    have hin := bankOffset_inside (i := j) hb (show 0 < 1024 by decide)
    exact ⟨by simp only; omega, hin.2⟩

end

/-! ## The fixed banks -/

/-- A fixed half of the Serial variant's window shows its fixed bank (R475). -/
theorem prgOffset_serial_fixed {c : Config} {m : Mapper} (hv : c.variant = .serial) {k : Nat}
    (hk : k < 2) (hb : serialPrgBank m.serial k = none) {o : Nat} (ho : o < 16384) :
    prgOffset c m (16384 * k + o) = 16384 * serialFixedBank m.serial c.prgBanks16 + o := by
  have hslot : (16384 * k + o) / 16384 % 2 = k := by omega
  have hlow : (16384 * k + o) % 16384 = o := by omega
  simp only [prgOffset, hv, hslot, hb, hlow]

/-- A fixed slot of the Scanline variant's window shows its fixed bank (R490). -/
theorem prgOffset_scan_fixed {c : Config} {m : Mapper} (hv : c.variant = .scanline) {k : Nat}
    (hk : k < 4) (hb : scanPrgBank m.scan k = none) {o : Nat} (ho : o < 8192) :
    prgOffset c m (8192 * k + o) = 8192 * scanFixedBank k (2 * c.prgBanks16) + o := by
  have hslot : (8192 * k + o) / 8192 % 4 = k := by omega
  have hlow : (8192 * k + o) % 8192 = o := by omega
  simp only [prgOffset, hv, hslot, hb, hlow]

/-- Settles O60: the laws of reduction and of the slots, the offsets inside the image, the fixed banks. -/
theorem bankWindows : Obligations.BankWindows := by
  refine ⟨fun b n k h1 hn hk => ?least, fun b n i _ h => (reduce_some h).2, reduce_pow,
    fun c m r hr i hi o ho => slot_offset hr hi ho, fun c m n => mem_failingBanks,
    fun c m hw h => ⟨fun i hi => prgOffset_inside h hw hi, fun hc j hj => chrOffset_inside h hc hj⟩,
    fun c m o h1 ho => ⟨fun hv hn => ?fixedOne, fun hv hn => ?fixedTwo, fun hv _ => ?fixedPattern,
      fun hv hl => ?serialFirst, fun hv hl => ?serialLast, fun hv ho' => ⟨?scanLast, ?scanSecondLast⟩⟩⟩
  case least => rw [reduce, maskBank_eq h1 hn hk]
  case fixedOne => simp only [prgOffset, hv, if_pos hn]; omega
  case fixedTwo =>
    have hn1 : c.prgBanks16 ≠ 1 := by omega
    simp only [prgOffset, hv, if_neg hn1, and_self]
  case fixedPattern => simp only [chrOffset, hv]
  case serialFirst =>
    have hbank : serialPrgBank m.serial 0 = none := by
      rw [serialPrgBank_eq _ 0 (by decide), if_pos hl, if_pos rfl]
    have hshown := prgOffset_serial_fixed hv (by decide) hbank ho
    rw [serialFixedBank, layout_eq, if_pos hl] at hshown
    simpa using hshown
  case serialLast =>
    have hbank : serialPrgBank m.serial 1 = none := by
      rw [serialPrgBank_eq _ 1 (by decide), hl]; rfl
    have hshown := prgOffset_serial_fixed hv (by decide) hbank ho
    rwa [serialFixedBank, layout_eq, hl] at hshown
  case scanLast => exact prgOffset_scan_fixed hv (k := 3) (by decide) rfl ho'
  case scanSecondLast =>
    have hbit : m.scan.bankSelect.getLsbD 6 = m.scan.bankSelect[6] := rfl
    rw [hbit]
    cases h6 : m.scan.bankSelect[6] with
    | true =>
      have hbank : scanPrgBank m.scan 0 = none := by simp only [scanPrgBank, h6, if_true]
      have hshown := prgOffset_scan_fixed hv (by decide) hbank ho'
      rwa [Nat.mul_zero] at hshown
    | false =>
      have hbank : scanPrgBank m.scan 2 = none := by simp [scanPrgBank, h6]
      exact prgOffset_scan_fixed hv (by decide) hbank ho'

end Sys2Proof.Machine
end


section
/-! PROOF. A store or read-modify-write whose Mapper register write fails the bank check: the Processor
halts with everything but `pc`, `pgx` and a shift's carry as before (60_exceptions.md R521, R522;
49_mapper_bus.md R457). -/

namespace Sys2Proof.Machine

/-- An address of the program window is neither a port nor in the audio/IO range (R88). -/
theorem window_not_readHasEffect {a : Addr} (h : 0x8000 ≤ a.toNat) : ¬ readHasEffect a := by
  simp only [readHasEffect, isPort, isIo]
  omega

section
variable {f : Form} {s u : State} {r p : Byte}

/-- A bus write that halts, made on a state that differs from `s` in `pc`, `pgx` and `P` at most, is a
Mapper fault as `Faulted` says. -/
theorem busWrite_faulted (hs : s.cpu.halted = false) (hcpu : u.cpu = f.writeCpu s.cpu.cyc p s)
    (hquiet : ¬ readHasEffect (resolve f.operand s).1 → SameOutsideCpu s u)
    (ht : (busWrite (resolve f.operand s).1 r u).cpu.halted = true) :
    Faulted f r p s (busWrite (resolve f.operand s).1 r u) := by
  have hrun : u.cpu.halted = false := by rw [hcpu]; exact hs
  obtain ⟨hwindow, n, hn, sr, k, l, hfault⟩ := busWrite_fault hrun ht
  have hu : u = { s with cpu := f.writeCpu s.cpu.cyc p s } :=
    hcpu ▸ hquiet (window_not_readHasEffect hwindow)
  subst hu
  rw [hfault]
  exact ⟨hwindow, ⟨n, hn, rfl⟩, rfl, rfl, peek_congr rfl rfl (prgWin_serial s.cfg s.mapper sr k l)⟩

/-- A store whose bus write halts ends there: no cost is loaded (R520). -/
theorem storeForm_faulted {v : Byte}
    (h : f.Encoded ∧ exec f.instr s = storeInstr f.base f.operand v s) (hs : s.cpu.halted = false)
    (ht : (busWrite (resolve f.operand s).1 v (resolve f.operand s).2).cpu.halted = true) :
    ∃ t, exec f.instr s = .next t ∧ Faulted f v s.cpu.p s t := by
  refine ⟨_, h.2.trans ((storeInstr_eq ..).trans (by rw [finish_halted ht])), ?_⟩
  exact busWrite_faulted hs (by rw [resolve_eq]; rfl) (fun _ => resolve_sameOutsideCpu _ s) ht

/-- A write back that halts ends there: Z and N are not written (R522). -/
theorem WritesBack.faulted (h : WritesBack f r p u s) (hs : s.cpu.halted = false)
    (ht : (busWrite (resolve f.operand s).1 r u).cpu.halted = true) :
    ∃ t, exec f.instr s = .next t ∧ Faulted f r p s t :=
  ⟨_, h.runs.trans (by rw [writeBack_halted ht]), busWrite_faulted hs h.cpu h.quiet ht⟩

end

/-- Every form of the table is a store of its register. -/
theorem storeTable_exec (b : Byte) (w : Addr) (s : State) : ∀ g ∈ storeTable b w s, ∀ f ∈ g.1,
    f.Encoded ∧ exec f.instr s = storeInstr f.base f.operand g.2 s := by
  simp only [storeTable, List.forall_mem_cons, List.not_mem_nil, false_implies, implies_true, and_true]
  exact ⟨staForms_exec b w s, stxForms_exec b w s, styForms_exec b w s⟩

/-- Settles O19: every form of the three tables is a store or a write back. -/
theorem mapperFault : Obligations.MapperFault := fun b w s hs =>
  ⟨fun g hg f hf => storeForm_faulted (storeTable_exec b w s g hg f hf) hs,
   fun g hg f hf => (shiftTable_writesBack b w s g hg f hf).faulted hs,
   fun g hg f hf => (stepTable_writesBack b w s g hg f hf).faulted hs⟩

end Sys2Proof.Machine
end

section
/-! PROOF. The poll and the service: which request a boundary takes, what the service leaves, and that one
raise of the non-maskable line gives one interrupt (60_exceptions.md R525, R526, R530 to R535). -/

namespace Sys2Proof.Machine

/-! ## The poll (R530) -/

/-- Without an edge of the non-maskable line the maskable level decides, where `I` is 0. -/
theorem pollResult_noEdge {s : State} (h : ¬ (s.ppu.nmiLine = true ∧ s.cpu.nmiPrev = false)) :
    pollResult s = if s.cpu.p.getLsbD 2 = false ∧ (s.mapper.irqPending || apuLevel s) = true
      then .irq else .nothing := by
  have hedge : (s.ppu.nmiLine && !s.cpu.nmiPrev) = false := by
    rw [← Bool.not_eq_true, Bool.and_eq_true, Bool.not_eq_true']
    exact h
  have hflag : getFlag .intDisable s.cpu.p = s.cpu.p.getLsbD 2 := getFlag_eq .intDisable s.cpu.p
  rw [pollResult, hedge, hflag, interruptPending]
  simp only [Bool.false_eq_true, if_false, Bool.and_eq_true, Bool.not_eq_true']

theorem pollResult_nmi {s : State} : pollResult s = .nmi ↔
    s.ppu.nmiLine = true ∧ s.cpu.nmiPrev = false := by
  constructor
  · intro hpoll
    refine Decidable.byContradiction fun hno => ?_
    rw [pollResult_noEdge hno] at hpoll
    split at hpoll <;> cases hpoll
  · rintro ⟨hline, hprev⟩
    rw [pollResult, hline, hprev]
    rfl

/-! ## The service (R535) -/

/-- The service of a request, after the poll, does what `ServiceDone` says. -/
theorem service_done {vec : Addr} (h : vec ∈ [nmiVector, irqVector]) (s : State) :
    ServiceDone vec s ((service vec (afterPoll s)).setCyc 7) := by
  obtain ⟨hlow, hhigh⟩ := vector_window h
  have hread : ∀ a : Addr, 0x8000 ≤ a.toNat → (busRead a (afterPoll s)).1 = (busRead a s).1 :=
    fun a ha => by rw [busRead_window ha, busRead_window ha]; rfl
  have hserved : (service vec (afterPoll s)).setCyc 7 = _ := congrArg (State.setCyc 7)
    (enterInterrupt_pushes s.cpu.pc (interruptStatus s.cpu.p) hlow hhigh (afterPoll s))
  rw [hread vec hlow, hread (vec + 1) (by bv_omega)] at hserved
  refine ⟨?cpu, ?flags, ?frame, ?outside⟩
  case cpu => rw [hserved]; rfl
  case flags => rw [hserved]; exact putFlag_from .intDisable true s.cpu.p
  case frame =>
    exact enterInterrupt_stackFrame s.cpu.pc (interruptStatus s.cpu.p) hlow hhigh (afterPoll s)
  case outside =>
    exact congrArg (State.setCyc 7)
      (enterInterrupt_sameOutside s.cpu.pc (interruptStatus s.cpu.p) hlow hhigh (afterPoll s))

/-! ## The line sample (R530) -/

/-- A boundary action samples the line: the poll does, and nothing after it writes the sample. -/
theorem boundary_nmiPrev {s t : State} (h : boundary s = .next t) : t.cpu.nmiPrev = s.ppu.nmiLine := by
  obtain ⟨t', ht, hcase⟩ := boundary_access_or_halt s
  rw [h] at ht
  cases ht
  rcases hcase with hacc | ⟨op, u, hread, -, rfl⟩
  · obtain ⟨-, -, hsample⟩ := hacc.frame
    exact hsample
  · have hframe := busRead_frame s.cpu.pc (afterPoll s)
    rw [hread] at hframe
    rw [raiseHalt_cpu_nmiPrev, hframe.cpu]
    rfl

/-- A tick that meets no boundary leaves the sample. -/
theorem step_nmiPrev {s t : State} (hrun : s.cpu.halted = false) (hcyc : s.cpu.cyc ≠ 0)
    (h : step s = .next t) : t.cpu.nmiPrev = s.cpu.nmiPrev := by
  rw [step_counting hrun hcyc] at h
  cases h
  rw [(threeDots_tick _).keeps.1]
  rfl

/-- Settles O39: the three outcomes of the poll, the service of the two that have one, the sample. -/
theorem interrupts : Obligations.Interrupts := by
  refine ⟨fun s => ⟨fun hedge => ?nmi, fun hno hflag hlevel => ?irq, fun hno hquiet => ?fetch,
    fun b rest hlevels => ?level⟩, fun s t => boundary_nmiPrev, fun s t => step_nmiPrev,
    fun s hprev hpoll => ?noEdge⟩
  case nmi =>
    have hpoll := pollResult_nmi.mpr hedge
    exact ⟨_, by simp only [boundary, hpoll], service_done (List.mem_cons_self ..) s⟩
  case irq =>
    have hpoll := pollResult_noEdge hno
    rw [if_pos ⟨hflag, hlevel⟩] at hpoll
    exact ⟨_, by simp only [boundary, hpoll],
      service_done (List.mem_cons_of_mem _ (List.mem_cons_self ..)) s⟩
  case fetch =>
    have hmasked : ¬ (s.cpu.p.getLsbD 2 = false ∧ (s.mapper.irqPending || apuLevel s) = true) := by
      rintro ⟨hflag, hlevel⟩
      rcases hquiet with h | h
      · rw [hflag] at h; cases h
      · rw [hlevel] at h; cases h
    have hpoll := pollResult_noEdge hno
    rw [if_neg hmasked] at hpoll
    simp only [boundary, hpoll]
  case level => simp only [apuLevel, hlevels]
  case noEdge =>
    obtain ⟨-, hlow⟩ := pollResult_nmi.mp hpoll
    rw [hprev] at hlow
    cases hlow

end Sys2Proof.Machine
end


section
/-! PROOF. The machine at reset and in the seven steps after it: the invariants hold, the vectors are the
last six bytes of the image, and the first boundary finds nothing to service (70_reset_and_hazards.md R560,
R561, R563; 49_mapper_bus.md R462, R475, R490). -/

namespace Sys2Proof.Machine

/-! ## The Mapper at reset -/

/-- The Serial registers at reset (R56). -/
theorem reset_serial (c : Config) : (Mapper.reset c).serial = {
    sr := 0, srCount := 0, control := 0x0C, chrBank0 := 0, chrBank1 := 0, prgBank := 0
    lastWrite := none } := rfl

/-- The Scanline registers at reset (R57). -/
theorem reset_scan (c : Config) : (Mapper.reset c).scan = {
    bankSelect := 0, bankReg := Vector.replicate 8 0, ramProtect := 0, irqLatch := 0
    irqCounter := 0, irqReload := false, irqEnable := false } := rfl

theorem reset_serialProgram (c : Config) : serialProgram c (Mapper.reset c).serial =
    [⟨false, 16384, 0, 0, c.prgBanks16⟩] := by rw [reset_serial]; rfl

theorem reset_serialPattern (c : Config) : serialPattern c (Mapper.reset c).serial =
    [⟨true, 4096, 0, 0, 2 * c.chrBanks8⟩, ⟨true, 4096, 1, 1, 2 * c.chrBanks8⟩] := by
  rw [reset_serial]; rfl

theorem reset_scanProgram (c : Config) : scanProgram c (Mapper.reset c).scan =
    [⟨false, 8192, 0, 0, 2 * c.prgBanks16⟩, ⟨false, 8192, 1, 0, 2 * c.prgBanks16⟩] := by
  rw [reset_scan]; rfl

theorem reset_scanPattern (c : Config) : scanPattern c (Mapper.reset c).scan =
    (List.range 8).map fun k => ⟨true, 1024, k, if k < 4 then k % 2 else 0, 8 * c.chrBanks8⟩ := by
  rw [reset_scan]; rfl

/-! ## The vectors (R563) -/

/-- At reset the last 8 KiB of the program window are the last 8 KiB of the image, in every variant. -/
theorem reset_prgOffset_end {c : Config} (hw : c.wellFormed = true) {j : Nat} (h1 : 1 ≤ j)
    (hj : j ≤ 8192) :
    prgOffset c (Mapper.reset c) (32768 - j) = 16384 * c.prgBanks16 - j := by
  obtain ⟨hn, hsizes⟩ := wellFormed_sizes hw
  cases hv : c.variant with
  | fixed =>
    simp only [variantSizes, hv, Bool.and_eq_true, decide_eq_true_eq] at hsizes
    simp only [prgOffset, hv]
    split <;> omega
  | serial =>
    have h := prgOffset_serial_fixed (m := Mapper.reset c) hv (k := 1) (by decide)
      (by rw [reset_serial]; rfl)
      (o := 16384 - j) (by omega)
    have hlast : serialFixedBank (Mapper.reset c).serial c.prgBanks16 = c.prgBanks16 - 1 := by
      rw [reset_serial]; rfl
    rw [show 32768 - j = 16384 * 1 + (16384 - j) by omega, h, hlast]
    omega
  | scanline =>
    have h := prgOffset_scan_fixed (m := Mapper.reset c) hv (k := 3) (by decide)
      rfl
      (o := 8192 - j) (by omega)
    have hlast : scanFixedBank 3 (2 * c.prgBanks16) = 2 * c.prgBanks16 - 1 := rfl
    rw [show 32768 - j = 8192 * 3 + (8192 - j) by omega, h, hlast]
    omega

/-- Settles O30: `pc` and the two other vectors are read through the window's last six bytes. -/
theorem resetVectors : Obligations.ResetVectors := by
  intro c l hw
  have hend : ∀ j, 1 ≤ j → j ≤ 8192 → prgWin c (Mapper.reset c) (32768 - j) =
      c.prg.read (16384 * c.prgBanks16 - j) :=
    fun j h1 hj => by rw [prgWin, reset_prgOffset_end hw h1 hj]
  have hpeek : ∀ j, 1 ≤ j → j ≤ 8192 → (State.powerOn c l).peek (BitVec.ofNat 16 (65536 - j)) =
      some (c.prg.read (16384 * c.prgBanks16 - j)) := by
    intro j h1 hj
    have ha : (BitVec.ofNat 16 (65536 - j)).toNat = 65536 - j := Nat.mod_eq_of_lt (by omega)
    rw [State.peek, ha, if_neg (by omega), if_pos (by omega), ← hend j h1 hj,
      show 65536 - j - 0x8000 = 32768 - j by omega]
    rfl
  have hpc : (State.powerOn c l).cpu.pc = word16 (prgWin c (Mapper.reset c) (32768 - 4))
      (prgWin c (Mapper.reset c) (32768 - 3)) := rfl
  rw [hpc, hend 4 (by decide) (by decide), hend 3 (by decide) (by decide)]
  exact ⟨rfl, hpeek 6 (by decide) (by decide), hpeek 5 (by decide) (by decide),
    hpeek 2 (by decide) (by decide), hpeek 1 (by decide) (by decide)⟩

/-! ## The invariants -/

/-- A bank number below the count reduces (R456). -/
theorem reduce_below {b n : Nat} (h : b < n) : reduce b n ≠ none := by
  have hmask : maskBank b n < n := Nat.lt_of_le_of_lt Nat.and_le_left h
  rw [reduce, if_pos hmask]
  exact Option.some_ne_none _

/-- The slots of the pattern window are there only with pattern ROM (R452). -/
theorem mem_ite_nil {α : Type} {p : Prop} [Decidable p] {x : α} {l : List α}
    (h : x ∈ if p then l else []) : p ∧ x ∈ l := by
  split at h
  · next hp => exact ⟨hp, h⟩
  · cases h

/-- The bank numbers the reset registers name, 0 and 1, are those of banks every image has. -/
theorem reset_banksOk {c : Config} (hw : c.wellFormed = true) :
    failingBanks c (Mapper.reset c) = [] := by
  obtain ⟨hn, -⟩ := wellFormed_sizes hw
  refine failingBanks_nil.mpr fun r hr => reduce_below ?_
  unfold switchable at hr
  split at hr
  · cases hr
  · rw [reset_serialProgram, reset_serialPattern] at hr
    rcases List.mem_append.mp hr with hr | hr
    · obtain rfl := List.mem_singleton.mp hr
      exact hn
    · obtain ⟨hc, hr⟩ := mem_ite_nil hr
      simp only [List.mem_cons, List.not_mem_nil, or_false] at hr
      rcases hr with rfl | rfl <;> simp only <;> omega
  · rw [reset_scanProgram, reset_scanPattern] at hr
    rcases List.mem_append.mp hr with hr | hr
    · simp only [List.mem_cons, List.not_mem_nil, or_false] at hr
      rcases hr with rfl | rfl <;> simp only <;> omega
    · obtain ⟨hc, hr⟩ := mem_ite_nil hr
      obtain ⟨k, -, rfl⟩ := List.mem_map.mp hr
      simp only
      split <;> omega

theorem powerOn_p (c : Config) (l : Launch) : (State.powerOn c l).cpu.p = 0x24 := rfl

theorem powerOn_statusOk (c : Config) (l : Launch) : StatusOk (State.powerOn c l) := by
  rw [StatusOk, powerOn_p]
  decide

theorem blank_launchOk : Launch.blank.Ok := by
  have h : ∀ n, Memory.Wf [] ∧ Memory.Below [] n := fun n => ⟨Memory.nil_wf, Memory.nil_below n⟩
  refine ⟨h _, h _, h _, h _, h _, h _, fun y hy => ?_⟩
  have hrow : Launch.blank.fb[y]?.getD [] = [] := by simp [Launch.blank, hy]
  rw [hrow]
  exact h 256

/-- What the launch and the loader guarantee, the reset event keeps. -/
theorem powerOn_invariants {c : Config} {l : Launch} (hw : c.wellFormed = true) (hl : l.Ok) :
    MemoriesOk (State.powerOn c l) ∧ StatusOk (State.powerOn c l) ∧ HaltOk (State.powerOn c l) ∧
    CycOk (State.powerOn c l) ∧ GridOk (State.powerOn c l) ∧ SpritesOk (State.powerOn c l) ∧
    MapperOk (State.powerOn c l) ∧ BanksOk (State.powerOn c l) := by
  refine ⟨⟨hl.wram, hl.ntram, hl.ntramExt, hl.cartRam, hl.patRam, hl.oam, hl.fb⟩, powerOn_statusOk c l, rfl,
    Nat.le_add_right 7 _, ⟨?dot, ?low, ?high⟩, Nat.zero_le 8, ⟨fun _ => rfl, fun hf => ?mirror, ?count⟩,
    reset_banksOk hw⟩
  case dot => exact Nat.zero_le 340
  case low => show (-1 : Int) ≤ 0; decide
  case high => show (0 : Int) ≤ 260; decide
  case mirror => exact if_pos hf
  case count => exact Nat.zero_le 4

/-- Settles O44: the reset state of the model is that of a well-formed image and a blank launch. -/
theorem invariantsAtReset : Obligations.InvariantsAtReset :=
  ⟨fun _ _ => powerOn_invariants, powerOn_invariants (by decide) blank_launchOk⟩

/-! ## The seven steps after reset (R561) -/

/-- A dot of line 0 before its last moves one dot on, and touches neither line nor flags. -/
theorem ppuStep_line0 {s : State} (hl : s.ppu.scanline = 0) (hd : s.ppu.dot < 340) :
    (ppuStep s).ppu.dot = s.ppu.dot + 1 ∧ (ppuStep s).ppu.scanline = 0 ∧
    (ppuStep s).ppu.nmiLine = s.ppu.nmiLine := by
  obtain ⟨-, hwithin, -⟩ := counterAdvance s
  obtain ⟨-, hline, -⟩ := ppuStep_flagEvents s
  obtain ⟨hdot, hsl, -⟩ := hwithin hd
  exact ⟨hdot, hsl.trans hl, by rw [hline, if_neg (by omega), if_neg (by omega)]⟩

/-- The machine `n` steps after reset, before its first boundary. -/
structure CountingDown (c : Config) (l : Launch) (n : Nat) (t : State) : Prop where
  cpu : t.cpu = { (State.powerOn c l).cpu with cyc := 7 - n }
  dot : t.ppu.dot = 3 * n
  scanline : t.ppu.scanline = 0
  nmiLine : t.ppu.nmiLine = false
  stepCount : t.stepCount = n

theorem countingDown_powerOn (c : Config) (l : Launch) : CountingDown c l 0 (State.powerOn c l) :=
  ⟨rfl, rfl, rfl, rfl, rfl⟩

/-- The next step counts down and makes three dots. -/
theorem CountingDown.next {c : Config} {l : Launch} {n : Nat} {t : State} (h : CountingDown c l n t)
    (hn : n < 7) : ∃ u, step t = .next u ∧ CountingDown c l (n + 1) u := by
  have hrun : t.cpu.halted = false := by rw [h.cpu]; rfl
  have hcyc : t.cpu.cyc = 7 - n := by rw [h.cpu]
  have hdot := h.dot
  let t' := (countStep t).setCyc (t.cpu.cyc - 1)
  obtain ⟨hd1, hl1, hi1⟩ := ppuStep_line0 (s := t') h.scanline (by show t.ppu.dot < 340; omega)
  replace hd1 : (ppuStep t').ppu.dot = t.ppu.dot + 1 := hd1
  obtain ⟨hd2, hl2, hi2⟩ := ppuStep_line0 hl1 (by omega)
  obtain ⟨hd3, hl3, hi3⟩ := ppuStep_line0 hl2 (by omega)
  obtain ⟨hcpu, -, hcount, -⟩ := (threeDots_tick t').keeps
  refine ⟨_, step_counting hrun (by omega), ?cpu, ?dot, hl3, ?line, ?count⟩
  case cpu =>
    rw [hcpu]
    show { t.cpu with cyc := t.cpu.cyc - 1 } = _
    rw [hcyc, h.cpu, Nat.sub_sub]
  case dot =>
    show (ppuStep (ppuStep (ppuStep t'))).ppu.dot = _
    omega
  case line => exact hi3.trans (hi2.trans (hi1.trans h.nmiLine))
  case count => exact hcount.trans (congrArg (· + 1) h.stepCount)

theorem CountingDown.run {c : Config} {l : Launch} {n : Nat} {t : State} (h : CountingDown c l n t)
    {k : Nat} (hk : n + k ≤ 7) : ∃ u, stepN k t = .next u ∧ CountingDown c l (n + k) u := by
  induction k generalizing n t with
  | zero => exact ⟨t, rfl, h⟩
  | succ k ih =>
    obtain ⟨u, hu, hnext⟩ := h.next (by omega)
    obtain ⟨v, hv, hrest⟩ := ih hnext (by omega)
    exact ⟨v, (stepN_succ hu k).trans hv, by rwa [Nat.add_right_comm, Nat.add_assoc] at hrest⟩

/-- Settles O31: the countdown's seven steps; at the eighth the line is low and `I` is 1. -/
theorem afterReset : Obligations.AfterReset := by
  intro c l
  have hrun : ∀ n ≤ 7, ∃ t, stepN n (State.powerOn c l) = .next t ∧ CountingDown c l n t := by
    intro n hn
    have h := (countingDown_powerOn c l).run (k := n) (by omega)
    rwa [Nat.zero_add] at h
  refine ⟨fun n hn => ?_, fun t ht => ?_⟩
  · obtain ⟨t, ht, h⟩ := hrun n hn
    exact ⟨t, ht, h.cpu, h.dot, h.scanline, h.stepCount⟩
  · obtain ⟨t', ht', h⟩ := hrun 7 (Nat.le_refl 7)
    rw [ht] at ht'
    cases ht'
    have hflag : (countStep t).cpu.p.getLsbD 2 = true := by
      rw [show (countStep t).cpu = t.cpu from rfl, h.cpu, powerOn_p]; rfl
    rw [pollResult_noEdge, if_neg]
    · rintro ⟨hclear, -⟩
      rw [hflag] at hclear
      cases hclear
    · rintro ⟨hline, -⟩
      rw [show (countStep t).ppu = t.ppu from rfl, h.nmiLine] at hline
      cases hline

end Sys2Proof.Machine
end

section
/-! PROOF. The dot as its pipelines leave it, and the background pipeline (47_ppu_pipelines.md R320, R360 to
R366). -/

namespace Sys2Proof.Machine

/-! ## The events of a dot, place by place -/

/-- The state after items (1) to (6) of a dot (R320). -/
def pipelined (s : State) : State :=
  if rendersLine s then renderEvents s.ppu.scanline s.ppu.dot (dotBase s) else dotBase s

/-- Item (7) of a dot and its counter advance write the scroll address and the counters alone. -/
theorem ppuStep_pipelined {α : Type} (f : State → α) (hf : ∀ (u : State) v d sl o,
    f { u with ppu := { u.ppu with v := v, dot := d, scanline := sl, odd := o } } = f u) (s : State) :
    f (ppuStep s) = f (pipelined s) := by
  have hcopy : ∀ u, f (verticalCopyEvent s.ppu.scanline s.ppu.dot u) = f u := by
    intro u
    rw [verticalCopyEvent]
    split
    · exact hf u _ u.ppu.dot u.ppu.scanline u.ppu.odd
    · rfl
  have hadvance : ∀ (u : State) ren, f (u.mapPpu (Ppu.advanceCounters ren)) = f u := by
    intro u ren
    rw [State.mapPpu, advanceCounters_frame]
    exact hf u u.ppu.v _ _ _
  rw [ppuStep_parts, hadvance]
  by_cases hren : s.ppu.rendering = true
  · rw [if_pos hren, hcopy, pipelined]
  · rw [if_neg hren, pipelined, if_neg fun h => hren ((rendering_iff s).mpr h.1)]

theorem pipelined_idle {s : State} (h : ¬ rendersLine s) : pipelined s = dotBase s := if_neg h

theorem pipelined_render {s : State} (h : rendersLine s) :
    pipelined s = renderEvents s.ppu.scanline s.ppu.dot (dotBase s) := if_pos h

/-- Outside the fetch window only dot 257 has an event of the pipelines. -/
theorem renderEvents_outside {sl : Int} {d : Nat} (h : ¬ fetchDot d) (h257 : d ≠ 257) (s : State) :
    renderEvents sl d s = s := by
  have h256 : d ≠ 256 := by omega
  simp only [renderEvents, inFetchWindow_iff, if_neg h, h256, false_and, if_false, if_neg h257]

/-- In the fetch window every dot but 256 is one dot of the background pipeline. -/
theorem renderEvents_window {sl : Int} {d : Nat} (h : fetchDot d) (h256 : d ≠ 256) (s : State) :
    renderEvents sl d s = backgroundDot d s := by
  have h257 : d ≠ 257 := by omega
  simp only [renderEvents, inFetchWindow_iff, if_pos h, h256, false_and, if_false, if_neg h257]

/-- Dot 256 moves the scroll address and evaluates the sprites as well. -/
theorem renderEvents_256 (sl : Int) (s : State) : ∃ v, renderEvents sl 256 s =
    ((backgroundDot 256 s).mapPpu fun p => { p with v := v }).mapPpu (Ppu.evaluateSprites sl) := by
  by_cases h : 0 ≤ sl
  · refine ⟨incVertical (backgroundDot 256 s).ppu.v, ?_⟩
    simp only [renderEvents, h, and_self, if_true]
    rfl
  · refine ⟨(backgroundDot 256 s).ppu.v, ?_⟩
    simp only [renderEvents, h, and_false, if_false]
    rfl

/-! ## What leaves the background pipeline as it is -/

theorem BackgroundKept.trans {s t u : State} (h : BackgroundKept s t) (k : BackgroundKept t u) :
    BackgroundKept s u :=
  ⟨k.1.trans h.1, k.2.trans h.2, k.3.trans h.3, k.4.trans h.4, k.5.trans h.5, k.6.trans h.6,
    k.7.trans h.7, k.8.trans h.8⟩

theorem dotBase_backgroundKept (s : State) : BackgroundKept s (dotBase s) := by
  rw [dotBase_frame]
  constructor <;> rfl

/-- The scan of the object table writes the secondary table, its count and the two sprite flags. -/
theorem scanSprites_frame (sl : Int) (l : List Nat) (p : Ppu) : l.foldl (scanSprite sl) p = { p with
    sec := (l.foldl (scanSprite sl) p).sec, secCount := (l.foldl (scanSprite sl) p).secCount
    spr0cand := (l.foldl (scanSprite sl) p).spr0cand, sprovf := (l.foldl (scanSprite sl) p).sprovf } := by
  induction l generalizing p with
  | nil => rfl
  | cons n l ih =>
    have hone : scanSprite sl p n = { p with
        sec := (scanSprite sl p n).sec, secCount := (scanSprite sl p n).secCount
        spr0cand := (scanSprite sl p n).spr0cand, sprovf := (scanSprite sl p n).sprovf } := by
      unfold scanSprite
      split
      · split <;> rfl
      · rfl
    rw [List.foldl_cons]
    generalize scanSprite sl p n = q at hone ⊢
    have hrest := ih q
    generalize l.foldl (scanSprite sl) q = r at hrest ⊢
    rw [hrest, hone]

theorem evaluateSprites_backgroundKept (sl : Int) (s : State) :
    BackgroundKept s (s.mapPpu (Ppu.evaluateSprites sl)) := by
  rw [State.mapPpu, Ppu.evaluateSprites, scanSprites_frame]
  constructor <;> rfl

/-- What the sprite fetch may write: the units, the last level of bit 12, the Mapper's counter. -/
theorem fetchSprites_frame (sl : Int) (l : List Nat) (s : State) : l.foldl (fetchSprite sl) s = { s with
    ppu := { s.ppu with su := (l.foldl (fetchSprite sl) s).ppu.su
                        a12Prev := (l.foldl (fetchSprite sl) s).ppu.a12Prev }
    mapper := (l.foldl (fetchSprite sl) s).mapper } := by
  induction l generalizing s with
  | nil => rfl
  | cons i l ih =>
    have hone : fetchSprite sl s i = { s with
        ppu := { s.ppu with su := (fetchSprite sl s i).ppu.su
                            a12Prev := (fetchSprite sl s i).ppu.a12Prev }
        mapper := (fetchSprite sl s i).mapper } := by
      simp only [fetchSprite, patFetch_eq]
      rfl
    rw [List.foldl_cons]
    generalize fetchSprite sl s i = u at hone ⊢
    have hrest := ih u
    generalize l.foldl (fetchSprite sl) u = w at hrest ⊢
    rw [hrest, hone]

theorem renderEvents_257_backgroundKept (sl : Int) (s : State) :
    BackgroundKept s (renderEvents sl 257 s) := by
  rw [renderEvents_257, fetchSprites, fetchSprites_frame]
  constructor <;> rfl

theorem ppuStep_backgroundKept (s : State) : BackgroundKept (pipelined s) (ppuStep s) := by
  constructor
  case ntByte => exact ppuStep_pipelined (·.ppu.ntByte) (fun _ _ _ _ _ => rfl) s
  case atBits => exact ppuStep_pipelined (·.ppu.atBits) (fun _ _ _ _ _ => rfl) s
  case patLo => exact ppuStep_pipelined (·.ppu.patLo) (fun _ _ _ _ _ => rfl) s
  case patHi => exact ppuStep_pipelined (·.ppu.patHi) (fun _ _ _ _ _ => rfl) s
  case bgLo => exact ppuStep_pipelined (·.ppu.bgLo) (fun _ _ _ _ _ => rfl) s
  case bgHi => exact ppuStep_pipelined (·.ppu.bgHi) (fun _ _ _ _ _ => rfl) s
  case atLo => exact ppuStep_pipelined (·.ppu.atLo) (fun _ _ _ _ _ => rfl) s
  case atHi => exact ppuStep_pipelined (·.ppu.atHi) (fun _ _ _ _ _ => rfl) s

/-- In the fetch window a dot does to the background pipeline what one dot of the pipeline does. -/
theorem ppuStep_backgroundDot {s : State} (hline : rendersLine s) (hfetch : fetchDot s.ppu.dot) :
    BackgroundKept (backgroundDot s.ppu.dot (dotBase s)) (ppuStep s) := by
  refine BackgroundKept.trans ?_ (ppuStep_backgroundKept s)
  rw [pipelined_render hline]
  by_cases h256 : s.ppu.dot = 256
  · rw [h256]
    obtain ⟨v, hv⟩ := renderEvents_256 s.ppu.scanline (dotBase s)
    rw [hv]
    have hscroll : BackgroundKept (backgroundDot 256 (dotBase s))
        ((backgroundDot 256 (dotBase s)).mapPpu fun p => { p with v := v }) := by
      constructor <;> rfl
    exact hscroll.trans (evaluateSprites_backgroundKept _ _)
  · rw [renderEvents_window hfetch h256]
    constructor <;> rfl

/-- Outside the window a dot leaves the background pipeline alone. -/
theorem ppuStep_outside_backgroundKept {s : State} (h : ¬ rendersLine s ∨ ¬ fetchDot s.ppu.dot) :
    BackgroundKept s (ppuStep s) := by
  refine ((dotBase_backgroundKept s).trans ?_).trans (ppuStep_backgroundKept s)
  by_cases hline : rendersLine s
  · have hfetch : ¬ fetchDot s.ppu.dot := h.resolve_left (not_not_intro hline)
    rw [pipelined_render hline]
    by_cases h257 : s.ppu.dot = 257
    · rw [h257]; exact renderEvents_257_backgroundKept _ _
    · rw [renderEvents_outside hfetch h257]; constructor <;> rfl
  · rw [pipelined_idle hline]; constructor <;> rfl

/-! ## One dot of the pipeline, by its phase -/

/-- The shift of R361 in whole numbers. -/
theorem shift_toNat (r : BitVec 16) : (r <<< 1).toNat = shifted r := by
  rw [BitVec.toNat_shiftLeft, Nat.shiftLeft_eq, Nat.mul_comm]
  rfl

theorem broadcast_toNat (b : Bool) : (broadcast b).toNat = 255 * b.toNat := by cases b <;> rfl

/-- The palette-selector bits of a tile in whole numbers (R363). -/
theorem attributePair_toNat (b : Byte) (n : Nat) :
    ((b >>> n).setWidth 2).toNat = b.toNat / 2 ^ n % 4 := by
  rw [BitVec.toNat_setWidth, BitVec.toNat_ushiftRight, Nat.shiftRight_eq_div_pow]

theorem BackgroundShifted.kept {s t u : State} (h : BackgroundShifted s t) (k : BackgroundKept t u) :
    BackgroundShifted s u := by
  constructor
  case shift => rw [k.bgLo, k.bgHi, k.atLo, k.atHi]; exact h.shift
  case load => rw [k.bgLo, k.bgHi, k.atLo, k.atHi]; exact h.load

theorem BackgroundLatched.kept {s t u : State} (h : BackgroundLatched s t) (k : BackgroundKept t u) :
    BackgroundLatched s u := by
  constructor
  case ntByte => rw [k.ntByte, h.ntByte]
  case atBits => rw [k.atBits, h.atBits]
  case patLo => rw [k.patLo, h.patLo]
  case patHi => rw [k.patHi, h.patHi]

theorem fetchPatternLow_kept (s : State) : BackgroundKept (s.mapPpu fun p => { p with
    patLo := ppuRead s (BitVec.ofNat 14 (patternCell s)) }) (fetchPatternLow s) := by
  simp only [fetchPatternLow, patFetch_eq, bgPatternAddr_eq]
  constructor <;> rfl

theorem fetchPatternHigh_kept (s : State) : BackgroundKept (s.mapPpu fun p => { p with
    patHi := ppuRead s (BitVec.ofNat 14 (patternCell s + 8)) }) (fetchPatternHigh s) := by
  simp only [fetchPatternHigh, patFetch_eq, bgPatternAddr_eq, ofNat14_add8]
  constructor <;> rfl

/-- The phase actions (R362), each with its phases. -/
theorem fetchPhase_cases (d : Nat) (s : State) :
    (d % 8 = 0 ∧ fetchPhase d s = s.mapPpu Ppu.loadGroup) ∨
    (d % 8 = 1 ∧ fetchPhase d s = fetchNametable s) ∨
    (d % 8 = 3 ∧ fetchPhase d s = fetchAttribute s) ∨
    (d % 8 = 5 ∧ fetchPhase d s = fetchPatternLow s) ∨
    (d % 8 = 7 ∧ fetchPhase d s = fetchPatternHigh s) ∨
    (d % 8 % 2 = 0 ∧ d % 8 ≠ 0 ∧ fetchPhase d s = s) := by
  have hd : d % 8 < 8 := Nat.mod_lt _ (by decide)
  unfold fetchPhase
  generalize d % 8 = k at hd ⊢
  match k, hd with
  | 0, _ | 1, _ | 2, _ | 3, _ | 4, _ | 5, _ | 6, _ | 7, _ => simp

/-- On a phase that loads nothing the registers are shifted only. -/
theorem BackgroundShifted.of_shift {s t : State} (h8 : s.ppu.dot % 8 ≠ 0)
    (hbgLo : t.ppu.bgLo = s.ppu.bgLo <<< 1) (hbgHi : t.ppu.bgHi = s.ppu.bgHi <<< 1)
    (hatLo : t.ppu.atLo = s.ppu.atLo <<< 1) (hatHi : t.ppu.atHi = s.ppu.atHi <<< 1) :
    BackgroundShifted s t := by
  refine ⟨fun _ => ?_, fun h => absurd h h8⟩
  rw [hbgLo, hbgHi, hatLo, hatHi]
  exact ⟨shift_toNat _, shift_toNat _, shift_toNat _, shift_toNat _⟩

/-- The last dot of a group loads the low bytes from the latches (R366). -/
theorem BackgroundShifted.of_load {s t : State} (h8 : s.ppu.dot % 8 = 0)
    (hload : BackgroundKept (s.mapPpu fun p => p.shiftBackground.loadGroup) t) :
    BackgroundShifted s t := by
  refine ⟨fun h => absurd h8 h, fun _ => ?_⟩
  rw [hload.bgLo, hload.bgHi, hload.atLo, hload.atHi, ← broadcast_toNat, ← broadcast_toNat]
  exact ⟨loadLow_toNat _ _, loadLow_toNat _ _, loadLow_toNat _ _, loadLow_toNat _ _⟩

/-- A phase that fetches nothing leaves the latches. -/
theorem BackgroundLatched.of_kept {s t : State} (heven : s.ppu.dot % 8 % 2 = 0)
    (hnt : t.ppu.ntByte = s.ppu.ntByte) (hat : t.ppu.atBits = s.ppu.atBits)
    (hlo : t.ppu.patLo = s.ppu.patLo) (hhi : t.ppu.patHi = s.ppu.patHi) : BackgroundLatched s t := by
  constructor
  case ntByte => rw [if_neg (by omega), hnt]
  case atBits => rw [if_neg (by omega), hat]
  case patLo => rw [if_neg (by omega), hlo]
  case patHi => rw [if_neg (by omega), hhi]

/-- One dot of the background pipeline (R360), phase by phase. -/
theorem backgroundDot_law (s : State) : BackgroundShifted s (backgroundDot s.ppu.dot s) ∧
    BackgroundLatched s (backgroundDot s.ppu.dot s) := by
  rw [backgroundDot]
  rcases fetchPhase_cases s.ppu.dot (s.mapPpu Ppu.shiftBackground) with
    ⟨h, he⟩ | ⟨h, he⟩ | ⟨h, he⟩ | ⟨h, he⟩ | ⟨h, he⟩ | ⟨heven, h, he⟩ <;> rw [he]
  · refine ⟨.of_load h ?_, .of_kept (by omega) rfl rfl rfl rfl⟩
    constructor <;> rfl
  · refine ⟨.of_shift (by omega) rfl rfl rfl rfl, ?_⟩
    constructor
    case ntByte => rw [if_pos h, ← nametableAddr_eq]; rfl
    all_goals rw [if_neg (by omega)]; rfl
  · refine ⟨.of_shift (by omega) rfl rfl rfl rfl, ?_⟩
    constructor
    case atBits =>
      rw [if_pos h, ← attributeAddr_eq, ← attributeShift_eq, ← attributePair_toNat]
      rfl
    all_goals rw [if_neg (by omega)]; rfl
  · have hkept := fetchPatternLow_kept (s.mapPpu Ppu.shiftBackground)
    refine ⟨.kept (.of_shift (by omega) rfl rfl rfl rfl) hkept, .kept ?_ hkept⟩
    constructor
    case patLo => rw [if_pos h]; rfl
    all_goals rw [if_neg (by omega)]; rfl
  · have hkept := fetchPatternHigh_kept (s.mapPpu Ppu.shiftBackground)
    refine ⟨.kept (.of_shift (by omega) rfl rfl rfl rfl) hkept, .kept ?_ hkept⟩
    constructor
    case patHi => rw [if_pos h]; rfl
    all_goals rw [if_neg (by omega)]; rfl
  · exact ⟨.of_shift h rfl rfl rfl rfl, .of_kept heven rfl rfl rfl rfl⟩

/-! ## The obligation -/

/-- The first two items of a dot change nothing the background pipeline reads. -/
theorem backgroundDot_base (s : State) :
    BackgroundShifted s (backgroundDot s.ppu.dot (dotBase s)) ∧
    BackgroundLatched s (backgroundDot s.ppu.dot (dotBase s)) := by
  have hdot : (dotBase s).ppu.dot = s.ppu.dot := by rw [dotBase_frame]
  obtain ⟨hshift, hlatch⟩ := backgroundDot_law (dotBase s)
  rw [hdot] at hshift hlatch
  generalize backgroundDot s.ppu.dot (dotBase s) = t at hshift hlatch
  rw [dotBase_frame] at hshift hlatch
  exact ⟨⟨hshift.shift, hshift.load⟩, ⟨hlatch.ntByte, hlatch.atBits, hlatch.patLo, hlatch.patHi⟩⟩

/-- Settles O49: in the window the dot is one dot of the pipeline, elsewhere it leaves the pipeline. -/
theorem backgroundPipeline : Obligations.BackgroundPipeline := by
  refine fun s => ⟨fun hline hfetch => ?_, ppuStep_outside_backgroundKept⟩
  obtain ⟨hshift, hlatch⟩ := backgroundDot_base s
  have hkept := ppuStep_backgroundDot hline hfetch
  exact ⟨hshift.kept hkept, hlatch.kept hkept⟩

end Sys2Proof.Machine
end

section
/-! PROOF. Sprite evaluation: what the scan of the object table has found after each entry
(47_ppu_pipelines.md R370, R371). -/

namespace Sys2Proof.Machine

/-- What the scan leaves once the entries `found`, in this order, have matched; `p` stood before it. -/
structure Evaluated (p : Ppu) (found : List Nat) (q : Ppu) : Prop where
  oam : q.oam = p.oam
  ctrl : q.ctrl = p.ctrl
  secCount : q.secCount = min 8 found.length
  sec : ∀ k : Fin 8, q.sec[k] = match found[k.val]? with
    | some n => p.oamEntry n
    | none => p.sec[k]
  sprovf : q.sprovf = (p.sprovf || decide (8 < found.length))
  spr0cand : q.spr0cand = decide (0 ∈ found.take 8)

theorem evaluated_start (p : Ppu) : Evaluated p [] { p with secCount := 0, spr0cand := false } := by
  refine ⟨rfl, rfl, rfl, fun _ => rfl, ?_, rfl⟩
  exact (Bool.or_false _).symm

/-- A match while fewer than eight are found takes the next slot. -/
theorem Evaluated.copy {p q : Ppu} {found : List Nat} (h : Evaluated p found q) (n : Nat)
    (hroom : found.length < 8) : Evaluated p (found ++ [n]) { q with
      sec := q.sec.setIfInBounds q.secCount (q.oamEntry n)
      spr0cand := if n = 0 then true else q.spr0cand, secCount := q.secCount + 1 } := by
  have hcount : q.secCount = found.length := by rw [h.secCount]; omega
  have hentry : q.oamEntry n = p.oamEntry n := by rw [Ppu.oamEntry, h.oam]; rfl
  refine ⟨h.oam, h.ctrl, ?count, fun k => ?slot, ?overflow, ?candidate⟩
  case count => simp only [hcount, List.length_append, List.length_singleton]; omega
  case slot =>
    have hslot : (q.sec.setIfInBounds q.secCount (q.oamEntry n))[k] =
        if q.secCount = k.val then q.oamEntry n else q.sec[k] := Vector.getElem_setIfInBounds ..
    refine hslot.trans ?_
    rw [hcount, hentry, h.sec k]
    by_cases hk : k.val < found.length
    · rw [if_neg (by omega), List.getElem?_append_left hk]
    · rw [List.getElem?_append_right (by omega), List.getElem?_eq_none (Nat.le_of_not_lt hk)]
      by_cases heq : found.length = k.val
      · rw [if_pos heq, show k.val - found.length = 0 by omega]; rfl
      · rw [if_neg heq, List.getElem?_eq_none (by simp only [List.length_singleton]; omega)]
  case overflow =>
    simp only [h.sprovf, List.length_append, List.length_singleton]
    congr 1
    exact decide_eq_decide.mpr (by omega)
  case candidate =>
    have hall : (found ++ [n]).take 8 = found ++ [n] :=
      List.take_of_length_le (by rw [List.length_append, List.length_singleton]; omega)
    have hbefore : found.take 8 = found := List.take_of_length_le (Nat.le_of_lt hroom)
    simp only [h.spr0cand, hall, hbefore, List.mem_append, List.mem_singleton]
    by_cases hn : n = 0
    · simp [hn]
    · simp [hn, Ne.symm hn]

/-- A match once eight are found only sets the overflow flag. -/
theorem Evaluated.overflow {p q : Ppu} {found : List Nat} (h : Evaluated p found q) (n : Nat)
    (hfull : 8 ≤ found.length) : Evaluated p (found ++ [n]) { q with sprovf := true } := by
  refine ⟨h.oam, h.ctrl, ?count, fun k => ?slot, ?flag, ?candidate⟩
  case count => simp only [h.secCount, List.length_append]; omega
  case slot => rw [List.getElem?_append_left (Nat.lt_of_lt_of_le k.isLt hfull)]; exact h.sec k
  case flag =>
    have hmore : 8 < (found ++ [n]).length := by rw [List.length_append, List.length_singleton]; omega
    simp only [decide_eq_true hmore, Bool.or_true]
  case candidate => rw [List.take_append_of_le_length hfull]; exact h.spr0cand

/-- The scan of one entry (R370). -/
theorem Evaluated.scan {p q : Ppu} {found : List Nat} (h : Evaluated p found q) (sl : Int) (n : Nat) :
    Evaluated p (found ++ if p.spriteMatches sl n then [n] else []) (scanSprite sl q n) := by
  have hmatch : q.spriteMatches sl n = p.spriteMatches sl n := by
    unfold Ppu.spriteMatches Ppu.spriteHeight
    rw [h.oam, h.ctrl]
  have hcount := h.secCount
  rw [scanSprite, hmatch]
  split
  · split
    · exact h.copy n (by omega)
    · exact h.overflow n (by omega)
  · rwa [List.append_nil]

/-- The scan of a list of entries finds those that match, in order. -/
theorem evaluated_foldl (sl : Int) (p : Ppu) (l : List Nat) : ∀ {found q}, Evaluated p found q →
    Evaluated p (found ++ l.filter (p.spriteMatches sl)) (l.foldl (scanSprite sl) q) := by
  induction l with
  | nil => intro found q h; rwa [List.filter_nil, List.append_nil]
  | cons n l ih =>
    intro found q h
    have hnext := ih (h.scan sl n)
    rw [List.append_assoc] at hnext
    rw [List.filter_cons]
    split at hnext
    · next hm => rwa [if_pos hm]
    · next hm => rwa [if_neg hm]

/-- Entry 0 is scanned first, so where it matches it is among the first eight. -/
theorem zero_mem_take_filter (f : Nat → Bool) :
    0 ∈ ((List.range 64).filter f).take 8 ↔ 0 ∈ (List.range 64).filter f := by
  refine ⟨List.mem_of_mem_take, fun h => ?_⟩
  have hf : f 0 = true := (List.mem_filter.mp h).2
  rw [List.range_succ_eq_map, List.filter_cons, if_pos hf, List.take_succ_cons]
  exact List.mem_cons_self

/-- Sprite evaluation (R370), from a state with the object table, the control register, the secondary
table and the flag of `s`. -/
theorem evaluateSprites_evaluated {s : State} {p : Ppu} (hoam : p.oam = s.ppu.oam)
    (hctrl : p.ctrl = s.ppu.ctrl) : Evaluated p (nextSprites s) (p.evaluateSprites s.ppu.scanline) := by
  have h := evaluated_foldl s.ppu.scanline p (List.range 64) (evaluated_start p)
  rw [List.nil_append, funext (spriteMatches_eq s p hoam hctrl)] at h
  exact h

/-! ## The other dots -/

/-- Sprite evaluation's results are as they were. -/
structure EvaluationKept (p q : Ppu) : Prop where
  secCount : q.secCount = p.secCount
  sec : q.sec = p.sec
  spr0cand : q.spr0cand = p.spr0cand
  sprovf : q.sprovf = p.sprovf

/-- Of the pipelines' events only dot 256 evaluates sprites. -/
theorem renderEvents_evaluationKept (sl : Int) {d : Nat} (h256 : d ≠ 256) (s : State) :
    EvaluationKept s.ppu (renderEvents sl d s).ppu := by
  by_cases h257 : d = 257
  · rw [h257, renderEvents_257, fetchSprites, fetchSprites_frame]
    exact ⟨rfl, rfl, rfl, rfl⟩
  · by_cases hfetch : fetchDot d
    · rw [renderEvents_window hfetch h256, backgroundDot_frame]
      exact ⟨rfl, rfl, rfl, rfl⟩
    · rw [renderEvents_outside hfetch h257]
      exact ⟨rfl, rfl, rfl, rfl⟩

theorem ppuStep_evaluationKept (s : State) : EvaluationKept (pipelined s).ppu (ppuStep s).ppu := by
  constructor
  case secCount => exact ppuStep_pipelined (·.ppu.secCount) (fun _ _ _ _ _ => rfl) s
  case sec => exact ppuStep_pipelined (·.ppu.sec) (fun _ _ _ _ _ => rfl) s
  case spr0cand => exact ppuStep_pipelined (·.ppu.spr0cand) (fun _ _ _ _ _ => rfl) s
  case sprovf => exact ppuStep_pipelined (·.ppu.sprovf) (fun _ _ _ _ _ => rfl) s

/-- The flag is cleared at (-1, 1) only (R323 a). -/
theorem dotBase_sprovf {s : State} (h : ¬ (s.ppu.scanline = -1 ∧ s.ppu.dot = 1)) :
    (dotBase s).ppu.sprovf = s.ppu.sprovf := by
  rw [dotBase, pixelEvent_frame]
  show (flagEvents s.ppu.scanline s.ppu.dot s).ppu.sprovf = _
  by_cases hset : s.ppu.scanline = 241 ∧ s.ppu.dot = 1
  · rw [hset.1, hset.2]; rfl
  · rw [flagEvents_other s h hset]

theorem ppuStep_otherDot {s : State} (h : ¬ rendersLine s ∨ s.ppu.dot ≠ 256) :
    EvaluationKept (dotBase s).ppu (ppuStep s).ppu := by
  obtain ⟨hcount, hsec, hcand, hflag⟩ := ppuStep_evaluationKept s
  by_cases hline : rendersLine s
  · rw [pipelined_render hline] at hcount hsec hcand hflag
    obtain ⟨hcount', hsec', hcand', hflag'⟩ := renderEvents_evaluationKept s.ppu.scanline
      (h.resolve_left (not_not_intro hline)) (dotBase s)
    exact ⟨hcount.trans hcount', hsec.trans hsec', hcand.trans hcand', hflag.trans hflag'⟩
  · rw [pipelined_idle hline] at hcount hsec hcand hflag
    exact ⟨hcount, hsec, hcand, hflag⟩

/-- The background pipeline's dot leaves what the scan reads. -/
theorem backgroundDot_scanned (d : Nat) (s : State) : (backgroundDot d s).ppu.oam = s.ppu.oam ∧
    (backgroundDot d s).ppu.ctrl = s.ppu.ctrl ∧ (backgroundDot d s).ppu.sec = s.ppu.sec ∧
    (backgroundDot d s).ppu.sprovf = s.ppu.sprovf := by
  rw [backgroundDot_frame]
  exact ⟨rfl, rfl, rfl, rfl⟩

theorem dotBase_scanned (s : State) : (dotBase s).ppu.oam = s.ppu.oam ∧
    (dotBase s).ppu.ctrl = s.ppu.ctrl ∧ (dotBase s).ppu.sec = s.ppu.sec := by
  rw [dotBase_frame]
  exact ⟨rfl, rfl, rfl⟩

/-- At dot 256 the scan starts from the secondary table and the flag as they were before the dot. -/
theorem ppuStep_evaluates {s : State} (hline : rendersLine s) (hd : s.ppu.dot = 256) :
    ∃ p q, p.oam = s.ppu.oam ∧ p.sec = s.ppu.sec ∧ p.sprovf = s.ppu.sprovf ∧
      Evaluated p (nextSprites s) q ∧ EvaluationKept q (ppuStep s).ppu := by
  have hkept := ppuStep_evaluationKept s
  obtain ⟨hoam, hctrl, hsec, hflag⟩ := backgroundDot_scanned 256 (dotBase s)
  obtain ⟨hoam', hctrl', hsec'⟩ := dotBase_scanned s
  have hflag' := dotBase_sprovf (s := s) (by omega)
  obtain ⟨v, hv⟩ := renderEvents_256 s.ppu.scanline (dotBase s)
  rw [pipelined_render hline, hd, hv, mapPpu_ppu, mapPpu_ppu] at hkept
  exact ⟨{ (backgroundDot 256 (dotBase s)).ppu with v := v }, _, hoam.trans hoam', hsec.trans hsec',
    hflag.trans hflag', evaluateSprites_evaluated (hoam.trans hoam') (hctrl.trans hctrl'), hkept⟩

/-! ## The obligation -/

theorem coversNext_iff (s : State) (n : Nat) : coversNext s n = true ↔
    ((s.ppu.oam.read (4 * n)).toNat : Int) ≤ s.ppu.scanline ∧
    s.ppu.scanline < (s.ppu.oam.read (4 * n)).toNat + spriteRows s := by
  rw [coversNext, Bool.and_eq_true, decide_eq_true_eq, decide_eq_true_eq]

/-- Settles O50: the scan's invariant over the 64 entries, and the frame of the other dots. -/
theorem spriteEvaluation : Obligations.SpriteEvaluation := by
  refine fun s => ⟨fun hline hd => ?evaluated, fun h => ?other, fun hs => ?line0, fun n hn hs => ?offscreen⟩
  case evaluated =>
    obtain ⟨p, q, hoam, hsec, hsprovf, hq, hkept⟩ := ppuStep_evaluates hline hd
    rw [hkept.secCount, hkept.sec, hkept.sprovf, hkept.spr0cand]
    refine ⟨hq.secCount, fun k => ?_, by rw [hq.sprovf, hsprovf], ?_⟩
    · rw [hq.sec k, hsec]
      simp only [Ppu.oamEntry, hoam]
      rfl
    · rw [hq.spr0cand]
      exact decide_eq_decide.mpr (zero_mem_take_filter _)
  case other =>
    obtain ⟨hcount, hsec, hcand, hflag⟩ := ppuStep_otherDot h
    refine ⟨hcount.trans ?_, hsec.trans ?_, hcand.trans ?_, fun hclear => hflag.trans (dotBase_sprovf hclear)⟩
      <;> rw [dotBase_frame]
  case line0 =>
    refine List.filter_eq_nil_iff.mpr fun n _ hn => ?_
    have := (coversNext_iff s n).mp hn
    omega
  case offscreen =>
    have := (coversNext_iff s n).mp (List.mem_filter.mp hn).2
    omega

end Sys2Proof.Machine
end

section
/-! PROOF. The sprite fetch: each slot of the secondary table loads its unit (47_ppu_pipelines.md R375 to
R378). -/

namespace Sys2Proof.Machine

/-- What a slot loads depends on the secondary table, the control register and the memory read. -/
theorem unitFetched_congr {s t : State} (hsec : t.ppu.sec = s.ppu.sec)
    (hcount : t.ppu.secCount = s.ppu.secCount) (hctrl : t.ppu.ctrl = s.ppu.ctrl)
    (hread : ∀ a, ppuRead t a = ppuRead s a) (sl : Int) (i : Nat) :
    unitFetched sl t i = unitFetched sl s i := by
  unfold unitFetched Ppu.spriteHeight
  simp only [hsec, hcount, hctrl, hread]

/-- Each slot of a list is loaded from the state before the list, the others keep their units. -/
theorem fetchSprites_su (sl : Int) (l : List Nat) (s : State) (k : Fin 8) :
    (l.foldl (fetchSprite sl) s).ppu.su[k] = if k.val ∈ l then unitFetched sl s k else s.ppu.su[k] := by
  induction l generalizing s with
  | nil => rfl
  | cons i l ih =>
    obtain ⟨hsu, hsec, hcount, hctrl, hread⟩ := fetchSprite_eq sl s i
    have hslot : (fetchSprite sl s i).ppu.su[k] =
        if i = k.val then unitFetched sl s i else s.ppu.su[k] := by
      rw [hsu]; exact Vector.getElem_setIfInBounds ..
    rw [List.foldl_cons, ih, unitFetched_congr hsec hcount hctrl hread, hslot]
    by_cases hk : k.val ∈ l
    · rw [if_pos hk, if_pos (List.mem_cons_of_mem i hk)]
    · rw [if_neg hk]
      by_cases hi : i = k.val
      · rw [if_pos hi, hi, if_pos List.mem_cons_self]
      · rw [if_neg hi, if_neg fun h => (List.mem_cons.mp h).elim (Ne.symm hi) hk]

/-- At dot 257 every unit is fetched from the state before the dot. -/
theorem ppuStep_unitFetched {s : State} (hline : rendersLine s) (hd : s.ppu.dot = 257) (i : Fin 8) :
    (ppuStep s).ppu.su[i] = unitFetched s.ppu.scanline s i := by
  rw [ppuStep_pipelined (·.ppu.su) (fun _ _ _ _ _ => rfl) s, pipelined_render hline, hd,
    renderEvents_257, fetchSprites, fetchSprites_su, if_pos (List.mem_range.mpr i.isLt), dotBase_frame]
  exact unitFetched_congr rfl rfl rfl (fun _ => rfl) _ _

/-- A byte, mirrored where asked (R377), bit by bit. -/
theorem mirrored_bits (m : Bool) (b : Byte) {j : Nat} (hj : j < 8) :
    (if m = true then rev8 b else b).getLsbD j = b.getLsbD (if m then 7 - j else j) := by
  cases m with
  | true => exact rev8_bits b j hj
  | false => rfl

/-- A used slot loads the row of its selected entry (R375 to R377). -/
theorem unitFetched_used {s : State} {i : Fin 8} (h : i.val < s.ppu.secCount) :
    UnitLoaded s s.ppu.sec[i] (unitFetched s.ppu.scanline s i) := by
  have hentry : s.ppu.sec[i.val]?.getD ⟨0, 0, 0, 0⟩ = s.ppu.sec[i] := by
    rw [Vector.getElem?_eq_getElem i.isLt]; rfl
  unfold unitFetched
  simp only [if_pos h, hentry, spriteRowAddr_high_eq]
  rw [spriteRowAddr_eq]
  exact ⟨rfl, rfl, fun j hj => mirrored_bits _ _ hj, fun j hj => mirrored_bits _ _ hj⟩

/-- Settles O51: every unit is its slot's fetch. -/
theorem spriteFetch : Obligations.SpriteFetch := by
  intro s hline hd i
  rw [ppuStep_unitFetched hline hd]
  exact ⟨unitFetched_used, fun h => if_neg (Nat.not_lt.mpr h)⟩

end Sys2Proof.Machine
end

section
/-! PROOF. Compositing: the unit shown, the palette cell of a pixel, and what a dot leaves of the framebuffer,
the hit flag and the sprite units (47_ppu_pipelines.md R390 to R397). -/

namespace Sys2Proof.Machine

/-! ## The framebuffer -/

/-- A row after one pixel is put. -/
theorem setPixel_row {y : Nat} (hy : y < 240) (x : Nat) (c : BitVec 6) (p : Ppu) (y' : Nat) :
    (p.setPixel y x c).row y' = if y' = y then (p.row y).write x (c.setWidth 8) else p.row y' := by
  unfold Ppu.row Ppu.setPixel
  rw [Vector.getElem?_setIfInBounds]
  by_cases h : y' = y
  · rw [if_pos h.symm, if_pos (by omega), if_pos h]; rfl
  · rw [if_neg (Ne.symm h), if_neg h]

theorem setPixel_pixel_same {y : Nat} (hy : y < 240) (x : Nat) (c : BitVec 6) (p : Ppu) :
    (p.setPixel y x c).pixel y x = c := by
  have hc : (c.setWidth 8).setWidth 6 = c := BitVec.setWidth_setWidth_of_le c (by decide)
  rw [Ppu.pixel, setPixel_row hy, if_pos rfl, Memory.read_write_same, hc]

theorem setPixel_pixel_other {y : Nat} (hy : y < 240) (x : Nat) (c : BitVec 6) (p : Ppu) {y' x' : Nat}
    (h : y' ≠ y ∨ x' ≠ x) : (p.setPixel y x c).pixel y' x' = p.pixel y' x' := by
  rw [Ppu.pixel, setPixel_row hy]
  by_cases hrow : y' = y
  · rw [if_pos hrow, hrow, Memory.read_write_other _ _ (h.resolve_left (not_not_intro hrow))]; rfl
  · rw [if_neg hrow]; rfl

/-! ## The sprite unit shown (R392) -/

/-- A unit shows a colour: its counter is 0 and its colour index is not (R392). -/
def SpriteUnit.shows (u : SpriteUnit) : Bool := decide (u.xcnt = 0) && decide (unitColor u ≠ 0)

theorem color_of_shows {u : SpriteUnit} (h : u.shows = true) : u.color = unitColor u ∧ unitColor u ≠ 0 := by
  rw [SpriteUnit.shows, Bool.and_eq_true, decide_eq_true_eq, decide_eq_true_eq] at h
  exact ⟨by rw [SpriteUnit.color, if_pos h.1, unitColor_eq], h.2⟩

theorem color_of_not_shows {u : SpriteUnit} (h : u.shows = false) : u.color = 0 := by
  rw [SpriteUnit.color]
  split
  · next hx =>
    rw [SpriteUnit.shows, decide_eq_true hx, Bool.true_and, decide_eq_false_iff_not,
      Decidable.not_not] at h
    rw [unitColor_eq, h]
  · rfl

/-- The pixel of unit `i` of `f`, or no pixel, of units numbered from `k`. -/
def pixelOf {n : Nat} (f : Fin n → SpriteUnit) (k : Nat) : Option (Fin n) → SpritePixel
  | none => ⟨0, 0, false, none⟩
  | some i => ⟨unitColor (f i), (f i).attr.toNat % 4, (f i).attr.getLsbD 5, some (i + k)⟩

/-- The first opaque unit of a list is the first that shows a colour. -/
theorem firstOpaque_eq {n : Nat} (f : Fin n → SpriteUnit) (k : Nat) : firstOpaque (List.ofFn f) k =
    pixelOf f k ((List.finRange n).find? fun i => (f i).shows) := by
  induction n generalizing k with
  | zero => rfl
  | succ n ih =>
    rw [List.ofFn_succ, List.finRange_succ, List.find?_cons, List.find?_map, firstOpaque]
    cases h : (f 0).shows with
    | true =>
      obtain ⟨hcolor, hne⟩ := color_of_shows h
      have hpal : ((f 0).attr.extractLsb' 0 2).toNat = (f 0).attr.toNat % 4 := by
        rw [BitVec.extractLsb'_toNat, Nat.shiftRight_zero]
      rw [hcolor, if_pos hne, hpal, pixelOf, Fin.val_zero, Nat.zero_add]
      rfl
    | false =>
      rw [color_of_not_shows h, if_neg (not_not_intro rfl), ih]
      show _ = pixelOf f k (Option.map Fin.succ ((List.finRange n).find? fun i => (f i.succ).shows))
      cases (List.finRange n).find? fun i => (f i.succ).shows with
      | none => rfl
      | some i =>
        rw [Option.map_some, pixelOf, pixelOf, Fin.val_succ, Nat.add_right_comm, Nat.add_assoc]

theorem toList_eq_ofFn (v : Vector SpriteUnit 8) : v.toList = List.ofFn fun i : Fin 8 => v[i] := by
  refine List.ext_getElem (by rw [Vector.length_toList, List.length_ofFn]) fun i h _ => ?_
  rw [Vector.getElem_toList, List.getElem_ofFn]
  rfl

/-- The sprite pixel (R392) is that of the unit shown. -/
theorem spritePixel_eq (s : State) (x : Nat) :
    s.ppu.spritePixel x = pixelOf (fun i : Fin 8 => s.ppu.su[i]) 0 (unitShown s x) := by
  rw [Ppu.spritePixel, toList_eq_ofFn, firstOpaque_eq, unitShown]
  show (if (s.ppu.mask.getLsbD 4 && (decide (8 ≤ x) || s.ppu.mask.getLsbD 2)) = true then _ else _) = _
  split <;> rfl

/-- The unit shown has a colour index other than 0. -/
theorem unitShown_color {s : State} {x : Nat} {i : Fin 8} (h : unitShown s x = some i) :
    unitColor s.ppu.su[i] ≠ 0 := by
  rw [unitShown] at h
  split at h
  · have hi := List.find?_some h
    exact (color_of_shows hi).2
  · cases h

/-! ## The palette cell (R393, R395) -/

theorem bits_lt (a b : Bool) : 2 * a.toNat + b.toNat < 4 := by
  cases a <;> cases b <;> decide

theorem unitColor_lt (u : SpriteUnit) : unitColor u < 4 := bits_lt _ _

theorem backgroundShown_lt (s : State) (x : Nat) :
    (backgroundShown s x).1 < 4 ∧ (backgroundShown s x).2 < 4 := by
  rw [backgroundShown]
  split
  · exact ⟨bits_lt _ _, bits_lt _ _⟩
  · exact ⟨by decide, by decide⟩

/-- The priority multiplexer (R393). -/
theorem paletteIndex_eq (s : State) (x : Nat) :
    paletteIndex (s.ppu.bgPixel x) (s.ppu.spritePixel x) = paletteCell s x := by
  rw [bgPixel_eq, spritePixel_eq, paletteCell, paletteIndex]
  cases h : unitShown s x with
  | none => simp only [pixelOf, if_true]
  | some i =>
    have hcolor := unitShown_color h
    by_cases hbg : (backgroundShown s x).1 = 0
    · simp only [pixelOf, hcolor, hbg, true_or, if_true, if_false]
    · by_cases hprio : s.ppu.su[i].attr.getLsbD 5 = true
      · simp only [pixelOf, hcolor, hbg, hprio, or_self, if_true, if_false, Bool.true_eq_false]
      · simp only [pixelOf, hcolor, hbg, hprio, Bool.false_eq_true, if_false, or_true, if_true]

/-- A pixel's cell is 0 or one whose number is no multiple of 4. -/
theorem paletteCell_visible (s : State) (x : Nat) :
    paletteCell s x < 32 ∧ (paletteCell s x % 4 ≠ 0 ∨ paletteCell s x = 0) := by
  obtain ⟨hcolor, hpal⟩ := backgroundShown_lt s x
  rw [paletteCell]
  split
  · split <;> omega
  · next i h =>
    have hne := unitShown_color h
    have hlt := unitColor_lt s.ppu.su[i]
    split <;> omega

/-- Such a cell is not mirrored (R98). -/
theorem colorOf_visible (p : Ppu) {i : Nat} (hi : i < 32) (hcell : i % 4 ≠ 0 ∨ i = 0) :
    p.colorOf i = p.palette[i]?.getD 0 := by
  have haddr : (BitVec.ofNat 14 (0x3F00 + i)).toNat = 0x3F00 + i := by
    rw [BitVec.toNat_ofNat]; omega
  have hindex : (palIndex (BitVec.ofNat 14 (0x3F00 + i))).toNat = i := by
    rw [palIndex_toNat, paletteCellAt, haddr, if_neg (by omega)]; omega
  rw [Ppu.colorOf, Ppu.paletteAt, Vector.getElem?_eq_getElem hi, Option.getD_some]
  simp only [hindex]

/-! ## The sprite-zero condition (R394) -/

theorem spriteZeroHit_eq (s : State) (x : Nat) : s.ppu.spriteZeroHit x = zeroHit s x := by
  simp only [Ppu.spriteZeroHit, zeroHit, bgPixel_eq, spritePixel_eq]
  cases h : unitShown s x with
  | none => simp [pixelOf]
  | some i =>
    have hcolor := unitShown_color h
    have hzero : some (i.val + 0) = some 0 ↔ some i = some (0 : Fin 8) := by
      rw [Option.some_inj, Option.some_inj, Fin.ext_iff]; rfl
    simp only [pixelOf, hcolor, ne_eq, not_false_eq_true, decide_true, Bool.and_true, hzero]

/-! ## The dot -/

/-- On a visible dot the pipelines start from the composited pixel. -/
theorem dotBase_pixelDot {s : State} (h : pixelDot s) :
    dotBase s = s.mapPpu (Ppu.composite s.ppu.scanline.toNat (s.ppu.dot - 1)) := by
  obtain ⟨hlow, hhigh, hd⟩ := h
  rw [dotBase, flagEvents_other s (by omega) (by omega)]
  exact if_pos ⟨hlow, hhigh, hd⟩

/-- On the other dots it is only the flag events that come before the pipelines. -/
theorem dotBase_otherDot {s : State} (h : ¬ pixelDot s) :
    dotBase s = flagEvents s.ppu.scanline s.ppu.dot s := if_neg h

/-- The pipelines draw nothing. -/
theorem ppuStep_drawn (s : State) :
    (ppuStep s).ppu.fb = (dotBase s).ppu.fb ∧ (ppuStep s).ppu.spr0hit = (dotBase s).ppu.spr0hit := by
  have hpipe : PipeFrame (dotBase s) (pipelined s) := by
    rw [pipelined]
    split
    · exact renderEvents_pipe _ _ _
    · exact PipeFrame.refl _
  rw [ppuStep_pipelined (·.ppu.fb) (fun _ _ _ _ _ => rfl),
    ppuStep_pipelined (·.ppu.spr0hit) (fun _ _ _ _ _ => rfl), hpipe]
  exact ⟨rfl, rfl⟩

/-- Of the pipelines' events only dot 257 loads the units. -/
theorem ppuStep_units {s : State} (h : ¬ rendersLine s ∨ s.ppu.dot ≠ 257) :
    (ppuStep s).ppu.su = (dotBase s).ppu.su := by
  rw [ppuStep_pipelined (·.ppu.su) (fun _ _ _ _ _ => rfl)]
  by_cases hline : rendersLine s
  · have h257 : s.ppu.dot ≠ 257 := h.resolve_left (not_not_intro hline)
    rw [pipelined_render hline]
    by_cases hfetch : fetchDot s.ppu.dot
    · by_cases h256 : s.ppu.dot = 256
      · rw [h256]
        obtain ⟨v, hv⟩ := renderEvents_256 s.ppu.scanline (dotBase s)
        rw [hv, mapPpu_ppu, Ppu.evaluateSprites, scanSprites_frame, mapPpu_ppu, backgroundDot_frame]
      · rw [renderEvents_window hfetch h256, backgroundDot_frame]
    · rw [renderEvents_outside hfetch h257]
  · rw [pipelined_idle hline]

/-- Compositing with rendering enabled (R390 to R397). -/
theorem composite_rendering {s : State} (hren : s.ppu.rendering = true) (y x : Nat) :
    s.ppu.composite y x = { s.ppu.setPixel y x (s.ppu.palette[paletteCell s x]?.getD 0) with
      spr0hit := s.ppu.spr0hit || zeroHit s x, su := s.ppu.su.map SpriteUnit.tick } := by
  obtain ⟨hlt, hcell⟩ := paletteCell_visible s x
  rw [Ppu.composite, if_pos hren, paletteIndex_eq, colorOf_visible _ hlt hcell, spriteZeroHit_eq]

/-- Whatever the pixel, compositing puts one pixel. -/
theorem composite_fb (y x : Nat) (p : Ppu) : ∃ c, (p.composite y x).fb = (p.setPixel y x c).fb := by
  rw [Ppu.composite]
  split <;> exact ⟨_, rfl⟩

theorem pixel_congr {p q : Ppu} (h : p.fb = q.fb) (y x : Nat) : p.pixel y x = q.pixel y x := by
  rw [Ppu.pixel, Ppu.row, h]; rfl

/-- The first item of a dot draws nothing and clears the hit flag at (-1, 1) only (R323 a). -/
theorem flagEvents_drawn (s : State) : (flagEvents s.ppu.scanline s.ppu.dot s).ppu.fb = s.ppu.fb ∧
    (¬ (s.ppu.scanline = -1 ∧ s.ppu.dot = 1) →
      (flagEvents s.ppu.scanline s.ppu.dot s).ppu.spr0hit = s.ppu.spr0hit) ∧
    (flagEvents s.ppu.scanline s.ppu.dot s).ppu.su = s.ppu.su := by
  refine ⟨by rw [flagEvents_frame], fun hclear => ?_, by rw [flagEvents_frame]⟩
  by_cases hset : s.ppu.scanline = 241 ∧ s.ppu.dot = 1
  · rw [hset.1, hset.2]; rfl
  · rw [flagEvents_other s hclear hset]

/-- Settles O52: the pixel, the flag and the units of a visible dot are those of its compositing. -/
theorem pixelWritten : Obligations.PixelWritten := by
  intro s
  obtain ⟨hfb, hhit⟩ := ppuStep_drawn s
  refine ⟨fun hdot => ⟨fun hren => ?on, fun h3 h4 => ?off, fun y x hother => ?others⟩, fun hdot => ?other⟩
  case on =>
    have hy : s.ppu.scanline.toNat < 240 := by omega
    have hsu := ppuStep_units (s := s) (.inr (by omega))
    rw [dotBase_pixelDot hdot, mapPpu_ppu, composite_rendering ((rendering_iff s).mpr hren)] at hfb hhit hsu
    refine ⟨(pixel_congr hfb _ _).trans (setPixel_pixel_same hy _ _ _), hhit, fun i => ?_⟩
    rw [hsu]
    show UnitTicked _ (s.ppu.su.map SpriteUnit.tick)[i.val]
    rw [Vector.getElem_map]
    exact tick_ticked _
  case off =>
    have hy : s.ppu.scanline.toNat < 240 := by omega
    have hoff : ¬ s.ppu.rendering = true := by rw [rendering_iff, h3, h4]; decide
    have hsu := ppuStep_units (s := s) (.inr (by omega))
    rw [dotBase_pixelDot hdot, mapPpu_ppu, Ppu.composite, if_neg hoff] at hfb hhit hsu
    exact ⟨(pixel_congr hfb _ _).trans (setPixel_pixel_same hy _ _ _), hhit, hsu⟩
  case others =>
    have hy : s.ppu.scanline.toNat < 240 := by omega
    obtain ⟨c, hc⟩ := composite_fb s.ppu.scanline.toNat (s.ppu.dot - 1) s.ppu
    rw [dotBase_pixelDot hdot, mapPpu_ppu, hc] at hfb
    exact (pixel_congr hfb _ _).trans (setPixel_pixel_other hy _ _ _ hother)
  case other =>
    obtain ⟨hfb', hhit', hsu'⟩ := flagEvents_drawn s
    rw [← dotBase_otherDot hdot] at hfb' hhit' hsu'
    exact ⟨hfb.trans hfb', fun hclear => hhit.trans (hhit' hclear),
      fun hfetch => (ppuStep_units hfetch).trans hsu'⟩

end Sys2Proof.Machine
end

section
/-! PROOF. The edge detector on pattern address bit 12: the levels a dot puts on the line, and the one rise
of a line in the usual set-up (49_mapper_bus.md R500, R501; 47_ppu_pipelines.md R365, R375, R376, R378). -/

namespace Sys2Proof.Machine

/-! ## Levels put on the line, one after the other -/

/-- From `s` to `t` the levels `bits` were put on the line, and the Mapper saw nothing else. -/
structure Clocked (bits : List Bool) (s t : State) : Prop where
  mapper : t.mapper = iterate (advanceCounter s.cfg) (rises s.ppu.a12Prev bits) s.mapper
  last : t.ppu.a12Prev = bits.getLast?.getD s.ppu.a12Prev
  cfg : t.cfg = s.cfg

theorem Clocked.of_eq {s t : State} (hm : t.mapper = s.mapper) (ha : t.ppu.a12Prev = s.ppu.a12Prev)
    (hc : t.cfg = s.cfg) : Clocked [] s t := ⟨hm, ha, hc⟩

/-- The scroll address is not seen by the edge detector. -/
theorem Clocked.scroll {bits : List Bool} {s t : State} (h : Clocked bits s t) (v : BitVec 15) :
    Clocked bits s (t.mapPpu fun p => { p with v := v }) := ⟨h.mapper, h.last, h.cfg⟩

theorem iterate_add {α : Type} (f : α → α) (m n : Nat) (x : α) :
    iterate f (m + n) x = iterate f n (iterate f m x) := by
  induction n with
  | zero => rfl
  | succ n ih => rw [← Nat.add_assoc, iterate_succ, iterate_succ, ih]

theorem rises_append (prev : Bool) (a b : List Bool) :
    rises prev (a ++ b) = rises prev a + rises (a.getLast?.getD prev) b := by
  induction a generalizing prev with
  | nil => exact (Nat.zero_add _).symm
  | cons x a ih =>
    have hlast : (x :: a).getLast?.getD prev = a.getLast?.getD x := by
      cases a with
      | nil => rfl
      | cons y a => rw [List.getLast?_cons_cons, List.getLast?_eq_some_getLast (List.cons_ne_nil y a)]; rfl
    rw [List.cons_append, rises, rises, ih, hlast, Nat.add_assoc]

theorem Clocked.append {a b : List Bool} {s t u : State} (h : Clocked a s t) (k : Clocked b t u) :
    Clocked (a ++ b) s u := by
  constructor
  case mapper => rw [k.mapper, h.mapper, h.cfg, h.last, rises_append, iterate_add]
  case last =>
    rw [k.last, h.last]
    cases hb : b.getLast? with
    | none => rw [List.getLast?_eq_none_iff.mp hb, List.append_nil]; rfl
    | some y => rw [List.getLast?_append, hb]; rfl
  case cfg => exact k.cfg.trans h.cfg

/-- A pattern read puts its address bit 12 on the line (R500). -/
theorem patFetch_clocked (a : PAddr) (s : State) : Clocked [a.getLsbD 12] s (patFetch a s).2 := by
  rw [patFetch_eq]
  refine ⟨?_, rfl, rfl⟩
  show (if (a.getLsbD 12 && !s.ppu.a12Prev) = true then advanceCounter s.cfg s.mapper else s.mapper) = _
  rw [rises, rises]
  split <;> rfl

/-! ## Bit 12 of the pattern addresses -/

theorem ofNat14_bit12 (b : Bool) {n : Nat} (hn : n < 4096) :
    (BitVec.ofNat 14 (4096 * b.toNat + n)).getLsbD 12 = b := by
  have hbit : n.testBit 12 = false := Nat.testBit_lt_two_pow hn
  rw [BitVec.getLsbD_ofNat]
  cases b with
  | false => rw [Bool.toNat_false, Nat.mul_zero, Nat.zero_add, hbit]; rfl
  | true =>
    rw [Bool.toNat_true, Nat.mul_one, show 4096 = 2 ^ 12 from rfl, Nat.testBit_two_pow_add_eq, hbit]
    rfl

theorem bgPatternAddr_bit12 (s : State) :
    s.ppu.bgPatternAddr.getLsbD 12 = s.ppu.ctrl.getLsbD 4 ∧
    (s.ppu.bgPatternAddr + 8).getLsbD 12 = s.ppu.ctrl.getLsbD 4 := by
  have hnt := s.ppu.ntByte.isLt
  have hfine : fineY s.ppu.v < 8 := by have := s.ppu.v.isLt; rw [fineY]; omega
  rw [bgPatternAddr_eq, ofNat14_add8, patternCell, Nat.add_assoc, Nat.add_assoc]
  exact ⟨ofNat14_bit12 _ (by omega), ofNat14_bit12 _ (by omega)⟩

/-- The table a sprite's rows lie in: of 16-row sprites the tile's own (R376). -/
def spriteTable (ctrl tile : Byte) : Bool := if ctrl.getLsbD 5 then tile.getLsbD 0 else ctrl.getLsbD 3

/-- A row inside the sprite's height leaves bit 12 to the table, in both planes. -/
theorem spriteRowAddr_bit12 (ctrl tile : Byte) {row : Nat}
    (hrow : row < if ctrl.getLsbD 5 then 16 else 8) :
    (spriteRowAddr ctrl tile row).getLsbD 12 = spriteTable ctrl tile ∧
    (spriteRowAddr ctrl tile row + 8).getLsbD 12 = spriteTable ctrl tile := by
  have htile := tile.isLt
  have hparity : tile.toNat % 2 = (tile.getLsbD 0).toNat := by
    rw [BitVec.getLsbD, Nat.testBit_zero]
    cases Nat.mod_two_eq_zero_or_one tile.toNat with
    | inl h => rw [h]; rfl
    | inr h => rw [h]; rfl
  rw [spriteRowAddr]
  show (if ctrl.getLsbD 5 = true then _ else _ : PAddr).getLsbD 12 = _ ∧
    ((if ctrl.getLsbD 5 = true then _ else _ : PAddr) + 8).getLsbD 12 = _
  cases h : ctrl.getLsbD 5 with
  | true =>
    rw [h, if_pos rfl] at hrow
    rw [if_pos rfl, spriteRowAddr_tall tile row hrow, ofNat14_add8, spriteTable, h, if_pos rfl, hparity,
      Nat.add_assoc, Nat.add_assoc, Nat.add_assoc]
    exact ⟨ofNat14_bit12 _ (by omega), ofNat14_bit12 _ (by omega)⟩
  | false =>
    rw [h, if_neg Bool.false_ne_true] at hrow
    rw [if_neg Bool.false_ne_true, show ctrl[3] = ctrl.getLsbD 3 from rfl,
      spriteRowAddr_low _ tile row hrow, ofNat14_add8, spriteTable, h, if_neg Bool.false_ne_true,
      Nat.add_assoc, Nat.add_assoc]
    exact ⟨ofNat14_bit12 _ (by omega), ofNat14_bit12 _ (by omega)⟩

/-! ## The levels of one dot -/

/-- One dot of the background pipeline reads a pattern byte on phases 5 and 7 (R362, R365). -/
theorem backgroundDot_clocked (d : Nat) (s : State) :
    Clocked (if d % 8 = 5 ∨ d % 8 = 7 then [s.ppu.ctrl.getLsbD 4] else []) s (backgroundDot d s) := by
  have hquiet : ∀ t : State, t.mapper = s.mapper → t.ppu.a12Prev = s.ppu.a12Prev → t.cfg = s.cfg →
      ¬ (d % 8 = 5 ∨ d % 8 = 7) →
      Clocked (if d % 8 = 5 ∨ d % 8 = 7 then [s.ppu.ctrl.getLsbD 4] else []) s t := by
    intro t hm ha hc hphase
    rw [if_neg hphase]
    exact .of_eq hm ha hc
  obtain ⟨hlow, hhigh⟩ := bgPatternAddr_bit12 (s.mapPpu Ppu.shiftBackground)
  rw [backgroundDot]
  rcases fetchPhase_cases d (s.mapPpu Ppu.shiftBackground) with
    ⟨h, he⟩ | ⟨h, he⟩ | ⟨h, he⟩ | ⟨h, he⟩ | ⟨h, he⟩ | ⟨heven, -, he⟩ <;> rw [he]
  · exact hquiet _ rfl rfl rfl (by omega)
  · exact hquiet _ rfl rfl rfl (by omega)
  · exact hquiet _ rfl rfl rfl (by omega)
  · have hfetch := patFetch_clocked (s.mapPpu Ppu.shiftBackground).ppu.bgPatternAddr
      (s.mapPpu Ppu.shiftBackground)
    rw [hlow] at hfetch
    rw [if_pos (.inl h)]
    exact ⟨hfetch.mapper, hfetch.last, hfetch.cfg⟩
  · have hfetch := patFetch_clocked ((s.mapPpu Ppu.shiftBackground).ppu.bgPatternAddr + 8)
      (s.mapPpu Ppu.shiftBackground)
    rw [hhigh] at hfetch
    rw [if_pos (.inr h)]
    exact ⟨hfetch.mapper, hfetch.last, hfetch.cfg⟩
  · exact hquiet _ rfl rfl rfl (by omega)

/-- The table slot `i` is fetched from; an unused slot reads tile 0xFF (R375, R378). -/
def slotTable (s : State) (i : Nat) : Bool :=
  spriteTable s.ppu.ctrl (if i < s.ppu.secCount then (s.ppu.sec[i]?.getD ⟨0, 0, 0, 0⟩).tile else 0xFF)

/-- A slot makes two reads, both from its table. -/
theorem fetchSprite_clocked (sl : Int) (s : State) (i : Nat) :
    Clocked [slotTable s i, slotTable s i] s (fetchSprite sl s i) := by
  have htwo : ∀ {a : PAddr} {b : Bool} {f : Ppu → Ppu}, (a.getLsbD 12 = b ∧ (a + 8).getLsbD 12 = b) →
      (∀ p, (f p).a12Prev = p.a12Prev) →
      Clocked [b, b] s ((patFetch (a + 8) (patFetch a s).2).2.mapPpu f) := by
    rintro a b f ⟨hlow, hhigh⟩ hf
    have h := (patFetch_clocked a s).append (patFetch_clocked (a + 8) _)
    rw [hlow, hhigh] at h
    exact ⟨h.mapper, (hf _).trans h.last, h.cfg⟩
  rw [slotTable]
  simp only [fetchSprite]
  by_cases hused : i < s.ppu.secCount
  · simp only [hused, decide_true, if_true]
    refine htwo (spriteRowAddr_bit12 _ _ (spriteRow_lt _ s.ppu.spriteHeight ?_ _)) fun _ => rfl
    rw [Ppu.spriteHeight]
    split <;> decide
  · simp only [hused, decide_false, if_false]
    refine htwo (spriteRowAddr_bit12 _ _ ?_) fun _ => rfl
    split <;> decide

/-- The slots in order, each from its table. -/
theorem fetchSprites_clocked (sl : Int) (l : List Nat) (s : State) :
    Clocked (l.flatMap fun i => [slotTable s i, slotTable s i]) s (l.foldl (fetchSprite sl) s) := by
  induction l generalizing s with
  | nil => exact .of_eq rfl rfl rfl
  | cons i l ih =>
    obtain ⟨-, hsec, hcount, hctrl, -⟩ := fetchSprite_eq sl s i
    have htable : slotTable (fetchSprite sl s i) = slotTable s := by
      funext j
      rw [slotTable, hsec, hcount, hctrl]
      rfl
    have h := (fetchSprite_clocked sl s i).append (ih (fetchSprite sl s i))
    rwa [htable] at h

/-- The levels of the sprite fetch, as a claim says them. -/
theorem slotLevels_eq (s : State) (i : Fin 8) : [slotTable s i, slotTable s i] =
    if s.ppu.ctrl.getLsbD 5 then
      if i.val < s.ppu.secCount then [s.ppu.sec[i].tile.getLsbD 0, s.ppu.sec[i].tile.getLsbD 0]
      else [true, true]
    else [s.ppu.ctrl.getLsbD 3, s.ppu.ctrl.getLsbD 3] := by
  have hentry : s.ppu.sec[i.val]?.getD ⟨0, 0, 0, 0⟩ = s.ppu.sec[i] := by
    rw [Vector.getElem?_eq_getElem i.isLt]; rfl
  rw [slotTable, spriteTable, hentry]
  split
  · split <;> rfl
  · rfl

theorem sprites_clocked (sl : Int) (s : State) :
    Clocked ((List.finRange 8).flatMap fun (i : Fin 8) =>
      if s.ppu.ctrl.getLsbD 5 then
        if i.val < s.ppu.secCount then [s.ppu.sec[i].tile.getLsbD 0, s.ppu.sec[i].tile.getLsbD 0]
        else [true, true]
      else [s.ppu.ctrl.getLsbD 3, s.ppu.ctrl.getLsbD 3]) s (fetchSprites sl s) := by
  have h := fetchSprites_clocked sl (List.range 8) s
  have hrange : List.range 8 = (List.finRange 8).map fun i => i.val := by decide
  rw [hrange, List.flatMap_map] at h
  simp only [slotLevels_eq] at h
  exact h

/-- The levels do not depend on what the first two items of a dot write. -/
theorem dotBase_clocked (s : State) : Clocked [] s (dotBase s) := by
  rw [dotBase_frame]
  exact .of_eq rfl rfl rfl

/-- Sprite evaluation reads no pattern. -/
theorem evaluateSprites_clocked (sl : Int) (s : State) :
    Clocked [] s (s.mapPpu (Ppu.evaluateSprites sl)) := by
  rw [State.mapPpu, Ppu.evaluateSprites, scanSprites_frame]
  exact .of_eq rfl rfl rfl

theorem patternBits_window {s : State} (hline : rendersLine s) (hfetch : fetchDot s.ppu.dot) :
    patternBits s =
      if s.ppu.dot % 8 = 5 ∨ s.ppu.dot % 8 = 7 then [s.ppu.ctrl.getLsbD 4] else [] := by
  have h257 : ¬ (rendersLine s ∧ s.ppu.dot = 257) := fun h => by omega
  rw [patternBits, if_neg h257]
  exact ite_congr (propext ⟨fun h => h.2.2, fun h => ⟨hline, hfetch, h⟩⟩) (fun _ => rfl) fun _ => rfl

theorem patternBits_other {s : State} (hfetch : ¬ (rendersLine s ∧ fetchDot s.ppu.dot))
    (h257 : ¬ (rendersLine s ∧ s.ppu.dot = 257)) : patternBits s = [] := by
  rw [patternBits, if_neg fun h => hfetch ⟨h.1, h.2.1⟩, if_neg h257]

/-- In the fetch window the levels are those of one dot of the background pipeline. -/
theorem pipelined_window_clocked {s : State} (hline : rendersLine s) (hfetch : fetchDot s.ppu.dot) :
    Clocked (patternBits s) s (pipelined s) := by
  have hctrl : (dotBase s).ppu.ctrl = s.ppu.ctrl := by rw [dotBase_frame]
  have hbg := (dotBase_clocked s).append (backgroundDot_clocked s.ppu.dot (dotBase s))
  rw [List.nil_append, hctrl, ← patternBits_window hline hfetch] at hbg
  rw [pipelined_render hline]
  by_cases h256 : s.ppu.dot = 256
  · obtain ⟨v, hv⟩ := renderEvents_256 s.ppu.scanline (dotBase s)
    rw [h256] at hbg
    rw [h256, hv, ← List.append_nil (patternBits s)]
    exact (hbg.scroll v).append (evaluateSprites_clocked _ _)
  · rw [renderEvents_window hfetch h256]
    exact hbg

/-- At dot 257 the levels are those of the sprite fetch. -/
theorem pipelined_257_clocked {s : State} (hline : rendersLine s) (h257 : s.ppu.dot = 257) :
    Clocked (patternBits s) s (pipelined s) := by
  have hcopy : Clocked [] s ((dotBase s).mapPpu fun p => { p with v := copyHorizontal p.v p.t }) :=
    (dotBase_clocked s).scroll _
  have h := hcopy.append (sprites_clocked s.ppu.scanline _)
  rw [pipelined_render hline, patternBits, if_neg (by omega), if_pos ⟨hline, h257⟩, h257,
    renderEvents_257]
  rw [List.nil_append, dotBase_frame] at h
  rw [dotBase_frame]
  exact h

/-- The levels items (1) to (6) of a dot put on the line. -/
theorem pipelined_clocked (s : State) : Clocked (patternBits s) s (pipelined s) := by
  by_cases hline : rendersLine s
  · by_cases hfetch : fetchDot s.ppu.dot
    · exact pipelined_window_clocked hline hfetch
    · by_cases h257 : s.ppu.dot = 257
      · exact pipelined_257_clocked hline h257
      · rw [patternBits_other (fun h => hfetch h.2) (fun h => h257 h.2), pipelined_render hline,
          renderEvents_outside hfetch h257]
        exact dotBase_clocked s
  · rw [patternBits_other (fun h => hline h.1) (fun h => hline h.1), pipelined_idle hline]
    exact dotBase_clocked s

/-- The levels of one dot (R500). -/
theorem ppuStep_clocked (s : State) : Clocked (patternBits s) s (ppuStep s) := by
  have h := pipelined_clocked s
  constructor
  case mapper => rw [ppuStep_pipelined (·.mapper) (fun _ _ _ _ _ => rfl), h.mapper]
  case last => rw [ppuStep_pipelined (·.ppu.a12Prev) (fun _ _ _ _ _ => rfl), h.last]
  case cfg => exact ppuStep_cfg s

/-! ## One line in the usual set-up (R501) -/

/-- Rendering enabled, background patterns low, 8-row sprites high. -/
structure UsualSetup (s : State) : Prop where
  rendering : s.ppu.mask.getLsbD 3 = true ∨ s.ppu.mask.getLsbD 4 = true
  background : s.ppu.ctrl.getLsbD 4 = false
  sprites : s.ppu.ctrl.getLsbD 3 = true
  rows : s.ppu.ctrl.getLsbD 5 = false

theorem UsualSetup.next {s : State} (h : UsualSetup s) : UsualSetup (ppuStep s) := by
  have hframe := ppuStep_tick s
  unfold TickFrame at hframe
  have hmask : (ppuStep s).ppu.mask = s.ppu.mask := by rw [hframe]
  have hctrl : (ppuStep s).ppu.ctrl = s.ppu.ctrl := by rw [hframe]
  constructor
  case rendering => rw [hmask]; exact h.rendering
  case background => rw [hctrl]; exact h.background
  case sprites => rw [hctrl]; exact h.sprites
  case rows => rw [hctrl]; exact h.rows

/-- Off dot 257 the line is put low or left alone. -/
theorem UsualSetup.patternBits_low {s : State} (h : UsualSetup s) (h257 : s.ppu.dot ≠ 257) :
    patternBits s = if rendersLine s ∧ fetchDot s.ppu.dot ∧ (s.ppu.dot % 8 = 5 ∨ s.ppu.dot % 8 = 7)
      then [false] else [] := by
  rw [patternBits, h.background, if_neg (c := rendersLine s ∧ s.ppu.dot = 257) fun hd => h257 hd.2]

/-- At dot 257 the line is put high sixteen times. -/
theorem UsualSetup.patternBits_high {s : State} (h : UsualSetup s) (hline : rendersLine s)
    (h257 : s.ppu.dot = 257) : patternBits s = List.replicate 16 true := by
  rw [patternBits, if_neg (by omega), if_pos ⟨hline, h257⟩, h.rows, h.sprites]
  rfl

/-- No rise while the line is put low or left alone. -/
theorem UsualSetup.quietDot {s : State} (h : UsualSetup s) (h257 : s.ppu.dot ≠ 257) :
    (ppuStep s).mapper = s.mapper ∧ (s.ppu.a12Prev = false → (ppuStep s).ppu.a12Prev = false) := by
  have hclock := ppuStep_clocked s
  have hbits := h.patternBits_low h257
  split at hbits <;> rw [hbits] at hclock
  · exact ⟨hclock.mapper, fun _ => hclock.last⟩
  · exact ⟨hclock.mapper, fun hlow => hclock.last.trans hlow⟩

/-- The first background pattern read of the next line's first tiles puts the line low. -/
theorem UsualSetup.dot325 {s : State} (h : UsualSetup s) (hline : rendersLine s)
    (hd : s.ppu.dot = 325) : (ppuStep s).ppu.a12Prev = false := by
  have hclock := ppuStep_clocked s
  rw [h.patternBits_low (by omega), if_pos ⟨hline, by omega, by omega⟩] at hclock
  exact hclock.last

/-- `n` dots after dot 258 of a line, before the next sprite fetch. -/
structure BetweenFetches (s : State) (n : Nat) (t : State) : Prop where
  setup : UsualSetup t
  place : t.ppu.scanline = s.ppu.scanline ∧ t.ppu.dot = 258 + n ∧ n ≤ 82 ∨
    t.ppu.scanline = s.ppu.scanline + 1 ∧ t.ppu.dot + 83 = n
  mapper : t.mapper = s.mapper
  low : 68 ≤ n → t.ppu.a12Prev = false
  cfg : t.cfg = s.cfg

theorem BetweenFetches.next {s t : State} {n : Nat} (h : BetweenFetches s n t)
    (hlow : -1 ≤ s.ppu.scanline) (hhigh : s.ppu.scanline ≤ 238) (hn : n < 340) :
    BetweenFetches s (n + 1) (ppuStep t) := by
  obtain ⟨-, hwithin, hend, -⟩ := counterAdvance t
  have hplace := h.place
  have h257 : t.ppu.dot ≠ 257 := by omega
  obtain ⟨hmapper, hkept⟩ := h.setup.quietDot h257
  refine ⟨h.setup.next, ?place, hmapper.trans h.mapper, fun hfirst => ?low, (ppuStep_cfg t).trans h.cfg⟩
  case place =>
    by_cases hd : t.ppu.dot < 340
    · obtain ⟨hdot, hline, -⟩ := hwithin hd
      omega
    · obtain ⟨hdot, hline, -⟩ := hend (by omega) (by omega)
      omega
  case low =>
    by_cases h67 : n = 67
    · exact h.setup.dot325 ⟨h.setup.rendering, by omega⟩ (by omega)
    · exact hkept (h.low (by omega))

theorem betweenFetches_iterate {s : State} (hsetup : UsualSetup s) (hlow : -1 ≤ s.ppu.scanline)
    (hhigh : s.ppu.scanline ≤ 238) (hd : s.ppu.dot = 258) {n : Nat} (hn : n ≤ 340) :
    BetweenFetches s n (iterate ppuStep n s) := by
  induction n with
  | zero => exact ⟨hsetup, .inl ⟨rfl, hd, by decide⟩, rfl, fun h => absurd h (by decide), rfl⟩
  | succ n ih => rw [iterate_succ]; exact (ih (by omega)).next hlow hhigh (by omega)

/-- Settles O53: the levels of a dot, and the one rise, at dot 257, of the 341 dots of a line. -/
theorem scanlineClock : Obligations.ScanlineClock := by
  refine ⟨fun s => ⟨(ppuStep_clocked s).mapper, (ppuStep_clocked s).last⟩,
    fun s hren hbg hspr hrows hlow hhigh hd _ => ?_⟩
  have h := betweenFetches_iterate ⟨hren, hbg, hspr, hrows⟩ hlow hhigh hd (Nat.le_refl 340)
  rw [iterate_succ]
  generalize iterate ppuStep 340 s = t at h ⊢
  have hplace := h.place
  have h257 : t.ppu.dot = 257 := by omega
  have hline : rendersLine t := ⟨h.setup.rendering, by omega⟩
  obtain ⟨hdot, hsl, -⟩ := (counterAdvance t).2.1 (by omega)
  have hclock := ppuStep_clocked t
  rw [h.setup.patternBits_high hline h257] at hclock
  have hmapper := hclock.mapper
  rw [h.low (by decide), h.cfg, h.mapper] at hmapper
  exact ⟨by omega, by omega, hclock.last, hmapper⟩

end Sys2Proof.Machine
end
